-- ==== Sys2Proof/Word.lean ====
section
/-! DEFINITION. Word types of the ULA block (spec/00_scope.md R6, R10; spec/20_memory.md R50). -/

namespace Sys2Proof

/-- One byte of memory, of a port transaction or of the interrupt vector (R50, R95). -/
abbrev Byte := BitVec 8

/-- A 16-bit memory address, port address or row-select value (R6, R81, R82). -/
abbrev Word := BitVec 16

/-- A 32-bit colour value (R28). -/
abbrev Colour := BitVec 32

/-- A host key identifier, opaque to the spec (R89). DESIGN CHOICE: numbers (log 6). -/
abbrev HostKey := Nat

end Sys2Proof
end

