-- ==== Sys2Proof/Config.lean ====
section
/-! DEFINITION. The parameters of spec/00_scope.md R6: the constants the source gives, the record of the
arguments the model takes, and the opaque values the OPEN ones have at reset (log 5). -/

namespace Sys2Proof

/-- `BITMAP_BASE` (R6). -/
abbrev bitmapBase : Word := 0x4000

/-- `ATTR_BASE` (R6). -/
abbrev attrBase : Word := 0x5800

/-- `MEM_SIZE` (R6). -/
abbrev memSize : Nat := 0x10000

/-- `PIXEL_FORMAT` (R6): which bits of a colour value are red, green and blue.
DESIGN CHOICE: one mask of bits each (log 17). -/
structure PixelFormat where
  red   : Colour
  green : Colour
  blue  : Colour
  deriving DecidableEq, Repr, Inhabited

/-- The bits of a colour value that carry a colour component. -/
def PixelFormat.components (f : PixelFormat) : Colour := f.red ||| f.green ||| f.blue

/-- The arguments of the model (R6), fixed before reset. `CYCLES_PER_FRAME` is the quotient of the two
rates (R9), `Sys2Proof.Machine.cyclesPerFrame`. -/
structure Params where
  romSize     : Nat
  romImage    : List Byte
  palette     : Vector Colour 16
  pixelFormat : PixelFormat
  cpuClockHz  : Nat
  frameRateHz : Nat
  intVector   : Byte
  keymap      : List (HostKey × Fin 8 × Fin 5)
  deriving DecidableEq, Repr

/-- The premises on the parameters: R7 (`ROM_SIZE`), R262 (`ROM_IMAGE` has exactly `ROM_SIZE` bytes),
R8 (`PALETTE[0]` and `PALETTE[8]` are equal and black under `PIXEL_FORMAT`) and R9 (a positive rate, and
`CYCLES_PER_FRAME >= 1`). `KEYMAP` is in range by its type (R112). -/
abbrev Params.Wf (p : Params) : Prop :=
  p.romSize ≤ 0x4000 ∧ p.romImage.length = p.romSize ∧
  p.palette[0] = p.palette[8] ∧ p.palette[0] &&& p.pixelFormat.components = 0 ∧
  0 < p.frameRateHz ∧ p.frameRateHz ≤ p.cpuClockHz

namespace Config

/-! The OPEN parameters (R6): free values with no body, one per parameter. Each has a type that holds
only what the spec fixes of it. -/

/-- `ROM_SIZE`, at most `0x4000` (R7). -/
opaque romSize : Fin 0x4001
/-- The bytes of `ROM_IMAGE` (R6). -/
opaque romByte : Nat → Byte
/-- `PIXEL_FORMAT` (R6). -/
opaque pixelFormat : PixelFormat
/-- The colours of `PALETTE` other than black (R8). -/
opaque colour : Nat → Colour
/-- What the bits outside the colour components hold in black (R8). -/
opaque blackPadding : Colour
/-- `FRAME_RATE_HZ` less one (R6: positive). -/
opaque frameRateLessOne : Nat
/-- How much `CPU_CLOCK_HZ` exceeds `FRAME_RATE_HZ` (R9: the quotient is at least 1). -/
opaque clockExcess : Nat
/-- `INT_VECTOR` (R95). -/
opaque intVector : Byte
/-- `KEYMAP`, a finite table of host keys and their coordinates (R89). -/
opaque keymap : List (HostKey × Fin 8 × Fin 5)

/-- The parameters the reset state has (R6), made of the free values above. -/
def params : Params where
  romSize     := romSize.val
  romImage    := (List.range romSize.val).map romByte
  palette     := Vector.ofFn fun i =>
    if i.val = 0 ∨ i.val = 8 then blackPadding &&& ~~~pixelFormat.components else colour i.val
  pixelFormat := pixelFormat
  cpuClockHz  := frameRateLessOne + 1 + clockExcess
  frameRateHz := frameRateLessOne + 1
  intVector   := intVector
  keymap      := keymap

end Config

end Sys2Proof
end

