-- ==== Sys2Proof/Syntax.lean ====
section
/-! DEFINITION. The operations of spec/30_encoding.md R80, their operands, and the records that encode
them (R98). -/

namespace Sys2Proof

/-- A host input event: `Key(id, pressed)` or `Quit` (R191). -/
inductive Event where
  | key (id : HostKey) (pressed : Bool)
  | quit
  deriving DecidableEq, Repr

/-- A transaction the processor issues inside `CPU_STEP` (R194). -/
inductive Txn where
  | memRd (addr : Word)
  | memWr (addr : Word) (data : Byte)
  | ioRd (port rowsel : Word)
  | ioWr (port : Word) (data : Byte)
  deriving DecidableEq, Repr

/-- The 21 operations of the table of R80, one constructor per row, in the table's order.
Matrix coordinates and screen coordinates are typed by their ranges (R88, R114, R97). -/
inductive Instr where
  | keySet (row : Fin 8) (bit : Fin 5) (pressed : Bool)
  | rowState (row : Fin 8)
  | hostKey (id : HostKey) (pressed : Bool)
  | ioWrBorder (port : Word) (data : Byte)
  | ioWrNop (port : Word) (data : Byte)
  | ioRdKeys (port rowsel : Word)
  | ioRdFloat (port rowsel : Word)
  | memRd (addr : Word)
  | memWrRam (addr : Word) (data : Byte)
  | memWrRom (addr : Word) (data : Byte)
  | pixel (x : Fin 256) (y : Fin 192)
  | videoDecode
  | poll (events : List Event)
  | quit
  | cpuStep (txns : List Txn) (cycles : Nat)
  | frameIrq
  | decode
  | flashAdvance
  | present
  | throttle
  | reset
  deriving DecidableEq, Repr

/-- The operations of format SEQ0, which have no operand: only the mnemonic of the script line (R98)
tells them apart. -/
inductive SeqOp where
  | videoDecode | frameIrq | decode | flashAdvance | present | throttle | reset
  deriving DecidableEq, Repr

/-- The formats of R80. SEQ0 carries the line's mnemonic (log 1). -/
inductive Format where
  | key | row | hkey | iow | ior | mr | mw | pxy
  | seq0 (op : SeqOp)
  | poll | ev | step
  deriving DecidableEq, Repr

/-- A record inside another: an event of POLL or a transaction of STEP, such as `IOW(0x00FE, 0x0E)`. -/
structure Item where
  format : Format
  values : List Nat
  deriving DecidableEq, Repr

/-- A script line's record (R98): the format's name and the operand values in the order of the table of
R80. `items` is the operand that is itself a list of records (`events`, `txns`), empty for every format
that has none. -/
structure Record where
  format : Format
  items  : List Item
  values : List Nat
  deriving DecidableEq, Repr

/-- The operands whose values have a range. -/
inductive OperandName where
  | row | bit | pressed | port | data | rowsel | addr | x | y
  deriving DecidableEq, Repr

/-- Why a record is no operation (R12: it cannot be formed from the operand types). -/
inductive DecodeError where
  /-- The operands are not as many, or not of the kind, as the format has. -/
  | wrongOperands (f : Format)
  /-- The operand's value is outside its range (R88, R97, R114). -/
  | outOfRange (o : OperandName)
  /-- An item of POLL that is no event, or of STEP that is no transaction. -/
  | wrongItem (f : Format)
  deriving DecidableEq, Repr

end Sys2Proof
end

