-- ==== Sys2Proof/WellFormed.lean ====
section
/-! DEFINITION. Which terms of `Instr` are operations: the column "selected by" of spec/30_encoding.md R80,
where a value of the operands selects the row. Ranges of coordinates are in the types. -/

namespace Sys2Proof

/-- The operands select this row (R80, R83, R87): an even port for `IO_WR.BORDER` and `IO_RD.KEYS`, an
odd one for `IO_WR.NOP` and `IO_RD.FLOAT`, an address from `ROM_SIZE` up for `MEM_WR.RAM` and one below
it for `MEM_WR.ROM`. -/
def Instr.wf (romSize : Nat) : Instr → Bool
  | .keySet _ _ _ => true
  | .rowState _ => true
  | .hostKey _ _ => true
  | .ioWrBorder port _ => !port.getLsbD 0
  | .ioWrNop port _ => port.getLsbD 0
  | .ioRdKeys port _ => !port.getLsbD 0
  | .ioRdFloat port _ => port.getLsbD 0
  | .memRd _ => true
  | .memWrRam addr _ => decide (romSize ≤ addr.toNat)
  | .memWrRom addr _ => decide (addr.toNat < romSize)
  | .pixel _ _ => true
  | .videoDecode => true
  | .poll _ => true
  | .quit => true
  | .cpuStep _ _ => true
  | .frameIrq => true
  | .decode => true
  | .flashAdvance => true
  | .present => true
  | .throttle => true
  | .reset => true

end Sys2Proof
end

