-- ==== Sys2Proof/Decode.lean ====
section
/-! DEFINITION. The decoder from records to operations (spec/30_encoding.md R80, R98), total and rejecting
by name; the encoder; the pseudo-operations of R99; and the bits of spec/opcode_table.json read as a
record. There is no wire format in the spec (91 N21): the layout of bits is the model's own (log 1). -/

namespace Sys2Proof

/-- An operand that is a number below `n`. -/
def readFin (n : Nat) (o : OperandName) (v : Nat) : Except DecodeError (Fin n) :=
  if h : v < n then .ok ⟨v, h⟩ else .error (.outOfRange o)

/-- An operand of `w` bits. -/
def readBits (w : Nat) (o : OperandName) (v : Nat) : Except DecodeError (BitVec w) :=
  if v < 2 ^ w then .ok (BitVec.ofNat w v) else .error (.outOfRange o)

/-- The one-bit operand `pressed`, 1 = pressed (R88, R89). -/
def readPressed : Nat → Except DecodeError Bool
  | 0 => .ok false
  | 1 => .ok true
  | _ => .error (.outOfRange .pressed)

/-- One event of POLL: `HKEY(id, pressed)` or `EV` (R191). -/
def decodeEvent (it : Item) : Except DecodeError Event :=
  match it.format, it.values with
  | .hkey, [id, pressed] => do
    let pressed ← readPressed pressed
    .ok (.key id pressed)
  | .ev, [] => .ok .quit
  | f, _ => .error (.wrongItem f)

/-- One transaction of STEP: `MR`, `MW`, `IOR` or `IOW` (R194). -/
def decodeTxn (it : Item) : Except DecodeError Txn :=
  match it.format, it.values with
  | .mr, [addr] => do
    let addr ← readBits 16 .addr addr
    .ok (.memRd addr)
  | .mw, [addr, data] => do
    let addr ← readBits 16 .addr addr
    let data ← readBits 8 .data data
    .ok (.memWr addr data)
  | .ior, [port, rowsel] => do
    let port ← readBits 16 .port port
    let rowsel ← readBits 16 .rowsel rowsel
    .ok (.ioRd port rowsel)
  | .iow, [port, data] => do
    let port ← readBits 16 .port port
    let data ← readBits 8 .data data
    .ok (.ioWr port data)
  | f, _ => .error (.wrongItem f)

/-- A list of items, in order, each by `f`. -/
def decodeItems {α : Type} (f : Item → Except DecodeError α) : List Item → Except DecodeError (List α)
  | [] => .ok []
  | it :: its => do
    let a ← f it
    let as ← decodeItems f its
    .ok (a :: as)

/-- The operation of format SEQ0 a line names. -/
def decodeSeqOp : SeqOp → Instr
  | .videoDecode => .videoDecode
  | .frameIrq => .frameIrq
  | .decode => .decode
  | .flashAdvance => .flashAdvance
  | .present => .present
  | .throttle => .throttle
  | .reset => .reset

/-- The decoder (R80): from a format and its operand values to the operation they select. A port
operation is selected by `port[0]` (R83), a memory write by the comparison of `addr` with `ROM_SIZE`
(R87), so the pseudo-operations `IO_WR`, `IO_RD` and `MEM_WR` of R99 are decoded here too. -/
def decode (romSize : Nat) (r : Record) : Except DecodeError Instr :=
  match r.format, r.items, r.values with
  | .key, [], [row, bit, pressed] => do
    let row ← readFin 8 .row row
    let bit ← readFin 5 .bit bit
    let pressed ← readPressed pressed
    .ok (.keySet row bit pressed)
  | .row, [], [row] => do
    let row ← readFin 8 .row row
    .ok (.rowState row)
  | .hkey, [], [id, pressed] => do
    let pressed ← readPressed pressed
    .ok (.hostKey id pressed)
  | .iow, [], [port, data] => do
    let port ← readBits 16 .port port
    let data ← readBits 8 .data data
    .ok (if port.getLsbD 0 then .ioWrNop port data else .ioWrBorder port data)
  | .ior, [], [port, rowsel] => do
    let port ← readBits 16 .port port
    let rowsel ← readBits 16 .rowsel rowsel
    .ok (if port.getLsbD 0 then .ioRdFloat port rowsel else .ioRdKeys port rowsel)
  | .mr, [], [addr] => do
    let addr ← readBits 16 .addr addr
    .ok (.memRd addr)
  | .mw, [], [addr, data] => do
    let addr ← readBits 16 .addr addr
    let data ← readBits 8 .data data
    .ok (if romSize ≤ addr.toNat then .memWrRam addr data else .memWrRom addr data)
  | .pxy, [], [x, y] => do
    let x ← readFin 256 .x x
    let y ← readFin 192 .y y
    .ok (.pixel x y)
  | .seq0 op, [], [] => .ok (decodeSeqOp op)
  | .poll, items, [] => do
    let events ← decodeItems decodeEvent items
    .ok (.poll events)
  | .ev, [], [] => .ok .quit
  | .step, items, [cycles] => do
    let txns ← decodeItems decodeTxn items
    .ok (.cpuStep txns cycles)
  | f, _, _ => .error (.wrongOperands f)

/-! ### The encoder -/

/-- `pressed` as a number (R88). -/
def pressedValue (pressed : Bool) : Nat := if pressed then 1 else 0

/-- The record of an event (R98; spec/95_test_vectors.md P1, P4). -/
def encodeEvent : Event → Item
  | .key id pressed => ⟨.hkey, [id, pressedValue pressed]⟩
  | .quit => ⟨.ev, []⟩

/-- The record of a transaction (R98; spec/95_test_vectors.md P1). -/
def encodeTxn : Txn → Item
  | .memRd addr => ⟨.mr, [addr.toNat]⟩
  | .memWr addr data => ⟨.mw, [addr.toNat, data.toNat]⟩
  | .ioRd port rowsel => ⟨.ior, [port.toNat, rowsel.toNat]⟩
  | .ioWr port data => ⟨.iow, [port.toNat, data.toNat]⟩

/-- The record of an operation: its format and operand values (R80, R98). -/
def encode : Instr → Record
  | .keySet row bit pressed => ⟨.key, [], [row.val, bit.val, pressedValue pressed]⟩
  | .rowState row => ⟨.row, [], [row.val]⟩
  | .hostKey id pressed => ⟨.hkey, [], [id, pressedValue pressed]⟩
  | .ioWrBorder port data => ⟨.iow, [], [port.toNat, data.toNat]⟩
  | .ioWrNop port data => ⟨.iow, [], [port.toNat, data.toNat]⟩
  | .ioRdKeys port rowsel => ⟨.ior, [], [port.toNat, rowsel.toNat]⟩
  | .ioRdFloat port rowsel => ⟨.ior, [], [port.toNat, rowsel.toNat]⟩
  | .memRd addr => ⟨.mr, [], [addr.toNat]⟩
  | .memWrRam addr data => ⟨.mw, [], [addr.toNat, data.toNat]⟩
  | .memWrRom addr data => ⟨.mw, [], [addr.toNat, data.toNat]⟩
  | .pixel x y => ⟨.pxy, [], [x.val, y.val]⟩
  | .videoDecode => ⟨.seq0 .videoDecode, [], []⟩
  | .poll events => ⟨.poll, events.map encodeEvent, []⟩
  | .quit => ⟨.ev, [], []⟩
  | .cpuStep txns cycles => ⟨.step, txns.map encodeTxn, [cycles]⟩
  | .frameIrq => ⟨.seq0 .frameIrq, [], []⟩
  | .decode => ⟨.seq0 .decode, [], []⟩
  | .flashAdvance => ⟨.seq0 .flashAdvance, [], []⟩
  | .present => ⟨.seq0 .present, [], []⟩
  | .throttle => ⟨.seq0 .throttle, [], []⟩
  | .reset => ⟨.seq0 .reset, [], []⟩

/-! ### Pseudo-operations (R99) -/

/-- `KEY_DOWN row bit`. -/
def keyDownRecord (row bit : Nat) : Record := ⟨.key, [], [row, bit, 1]⟩

/-- `KEY_UP row bit`. -/
def keyUpRecord (row bit : Nat) : Record := ⟨.key, [], [row, bit, 0]⟩

/-- `FRAME events steps`: the lines of one whole frame, each step being its `CPU_STEP`'s transactions and
cycle count. -/
def frameRecords (events : List Event) (steps : List (List Txn × Nat)) : List Record :=
  encode (.poll events) :: steps.map (fun st => encode (.cpuStep st.1 st.2)) ++
    [encode .frameIrq, encode .decode, encode .present, encode .throttle]

/-! ### The bits of spec/opcode_table.json

The table numbers only the 16 bits of a port address. DESIGN CHOICE (log 1): those are bits 15 to 0, the
first operand; bits 19 to 16 are the format; bits 22 to 20 the operation of SEQ0; bits 39 to 24 the
second operand; bits 55 to 40 the third. POLL has no event and STEP no transaction in this form. -/

/-- The operation of SEQ0 with this number, in the table's order. -/
def seqOpOfNumber : Nat → Option SeqOp
  | 0 => some .videoDecode
  | 1 => some .frameIrq
  | 2 => some .decode
  | 3 => some .flashAdvance
  | 4 => some .present
  | 5 => some .throttle
  | 6 => some .reset
  | _ => none

/-- The record the bits `w` stand for. A number that is no format or no operation of SEQ0 gives a
record that `decode` rejects. -/
def recordOfBits (w : Nat) : Record :=
  let first := w % 2 ^ 16
  let second := w / 2 ^ 24 % 2 ^ 16
  let third := w / 2 ^ 40 % 2 ^ 16
  match w / 2 ^ 16 % 16 with
  | 0 => ⟨.iow, [], [first, second]⟩
  | 1 => ⟨.ior, [], [first, second]⟩
  | 2 => ⟨.mr, [], [first]⟩
  | 3 => ⟨.mw, [], [first, second]⟩
  | 4 => ⟨.key, [], [first, second, third]⟩
  | 5 => ⟨.row, [], [first]⟩
  | 6 => ⟨.hkey, [], [first, second]⟩
  | 7 => ⟨.pxy, [], [first, second]⟩
  | 8 =>
    match seqOpOfNumber (w / 2 ^ 20 % 8) with
    | some op => ⟨.seq0 op, [], []⟩
    | none => ⟨.ev, [], [w]⟩
  | 9 => ⟨.poll, [], []⟩
  | 10 => ⟨.ev, [], []⟩
  | 11 => ⟨.step, [], [first]⟩
  | _ => ⟨.ev, [], [w]⟩

/-- The operation the decoder reads from the table's bits `w`, of which `nbits` are given and the rest
are 0. The comparison with `ROM_SIZE` uses the value the reset state has. -/
def decodeTableWord (nbits w : Nat) : Option Instr :=
  match decode Config.params.romSize (recordOfBits (w % 2 ^ nbits)) with
  | .ok i => some i
  | .error _ => none

end Sys2Proof
end

