-- ==== Sys2Proof/Machine/State.lean ====
section
/-! DEFINITION. The state of the block (spec/10_state.md R20: exactly nine elements), the model's own inputs
and history beside it, the reasons a step can stop, and the state after reset (spec/70_reset_and_hazards.md
R260). -/

namespace Sys2Proof.Machine

/-- The six values of `PHASE` (R27). -/
inductive Phase where
  | polling | executing | decoding | presenting | throttling | terminated
  deriving DecidableEq, Repr

/-- `PIX` (R28): 192 rows, top first, of 256 colours, leftmost first; `pix[y][x]`. -/
abbrev Picture := Vector (Vector Colour 256) 192

/-- `MEM` (R21) as the list of the cells that differ from the reset contents (R36), addresses rising
(log 14). -/
abbrev Memory := List Host.Cell

/-- What the processor reports of one step: the transactions it issued, in order, and the cycles it
consumed (R194). -/
structure CpuReport where
  txns   : List Txn
  cycles : Nat
  deriving DecidableEq, Repr

/-- What leaves the block: the result of a read (R80), the interrupt request (R195), the emission of
PRESENT (R198) and the sleep of THROTTLE (R199; its unit is `1 / FRAME_RATE_HZ` nanoseconds, log 16). -/
inductive Output where
  | result (value : Byte)
  | colour (value : Colour)
  | irq (vector : Byte)
  | present (pix : Picture) (brgb : Colour)
  | sleep (amount : Nat)
  deriving DecidableEq, Repr

/-- The first nine fields are the state of the block, all of it (R20). The others are the model's own
(R29: not state of the block): its arguments (log 5), its inputs (log 3), the pending script (log 2), the
history of what left it, newest first (log 4), and whether it has been reset (log 19). -/
structure State where
  /-- `MEM`. -/
  mem : Memory
  /-- `KROW[0..7]`. -/
  krow : Vector (BitVec 5) 8
  /-- `BORDER`. -/
  border : BitVec 3
  /-- `FLASH`, true = 1 = inverted. -/
  flash : Bool
  /-- `FLASHCNT`. -/
  flashcnt : BitVec 4
  /-- `FCYC`. -/
  fcyc : Nat
  /-- `PHASE`. -/
  phase : Phase
  /-- `PIX`; no value before the first decode (R43). -/
  pix : Option Picture
  /-- `BRGB`; no value before the first decode (R43). -/
  brgb : Option Colour
  /-- The parameters of R6. No operation writes them. -/
  params : Params
  /-- The host's pending input events, oldest first (R191). -/
  events : List Event
  /-- The processor's steps still to be taken, oldest first (R194). -/
  reports : List CpuReport
  /-- Wall-clock nanoseconds since the `POLL` of this frame began (R199). -/
  elapsed : Nat
  /-- Pending script lines (R98). -/
  script : List Record
  /-- What has left the block, newest first (R236). -/
  outputs : List Output
  /-- `RESET`, which "happens once, before everything else" (R260), has been performed. -/
  started : Bool
  deriving DecidableEq, Repr

/-- The reasons the machine stops for good. -/
inductive Fault where
  /-- Raised by `step` when `PHASE` is Terminated: "no operation is enabled and the state never changes
  again" (R192). Safe. -/
  | terminated
  /-- Raised by PRESENT when `PIX` or `BRGB` has no value yet (R43: "a fault on reading it before the
  first decode"). Safe. -/
  | noPicture
  deriving DecidableEq, Repr

/-- The reasons an operation has no meaning where it stands. -/
inductive Refusal where
  /-- Raised by `exec`'s arm of an instruction that has no meaning yet. Safe. -/
  | notModelled (mnemonic : String)
  /-- Raised by `step` for a script line whose record is no operation (R12, R114). Safe. -/
  | undecodable (e : DecodeError)
  /-- Raised by the port and memory-write operations when their operands select another row of the
  table (R12, R80). Safe. -/
  | notSelected
  /-- Raised by the phase operations in a phase, or with a cycle count, that does not enable them (R190).
  Safe. -/
  | notEnabled (phase : Phase)
  /-- Raised by RESET when it has been performed already: "There is no operation that resets a running
  block" (R260). Safe. -/
  | alreadyReset
  /-- Raised by `step` for a script line other than RESET while RESET is still to come (R260;
  spec/opcode_table.json: "power-on, once, before every other operation"). Safe. -/
  | notReset
  /-- Raised by RESET when the parameters break the premises of R262: "the block does not start". Safe. -/
  | parametersInvalid
  /-- Raised by `step` in Executing, below the budget, when the processor has reported no step: the
  block waits for its collaborator (R193, log 11). Safe. -/
  | awaitingProcessor
  deriving DecidableEq, Repr

/-- The state right after `RESET` (R260) of a block with the parameters `p`. -/
def State.powerOn (p : Params) : State where
  mem      := []
  krow     := Vector.replicate 8 0b11111
  border   := 0
  flash    := false
  flashcnt := 0
  fcyc     := 0
  phase    := .polling
  pix      := none
  brgb     := none
  params   := p
  events   := []
  reports  := []
  elapsed  := 0
  script   := []
  outputs  := []
  started  := true

/-- The machine right after reset. Its parameters are the free values of `Config` (log 5). -/
def State.reset : State := State.powerOn Config.params

end Sys2Proof.Machine
end

