-- ==== Sys2Proof/Machine/Operands.lean ====
section
/-! DEFINITION. The fields of operands and of data, and the arithmetic on them (spec/30_encoding.md R83 to
R94, R100; spec/00_scope.md R9; spec/45_frame_sequencer.md R199). -/

namespace Sys2Proof.Machine

/-! ### Port operands -/

/-- `port[0] = 0` selects the block's port (R83). -/
def portSelected (port : Word) : Bool := !port.getLsbD 0

/-- The new `BORDER`, `data[3:1]` (R84). -/
def borderField (data : Byte) : BitVec 3 := data.extractLsb' 1 3

/-- The row-select mask `~rowsel[15:8]` (R86). -/
def rowMask (rowsel : Word) : Byte := ~~~ rowsel.extractLsb' 8 8

/-! ### Matrix bits -/

/-- One row with the bit of a key cleared (pressed) or set (released) (R110). -/
def rowWithKey (row : BitVec 5) (bit : Fin 5) (pressed : Bool) : BitVec 5 :=
  if pressed then row &&& ~~~ BitVec.twoPow 5 bit.val else row ||| BitVec.twoPow 5 bit.val

/-- A row register as a byte, `0b111 ++ row` (R111). -/
def rowByte (row : BitVec 5) : Byte := 0b111#3 ++ row

/-! ### Attribute byte (R90) -/

def attrInk (attr : Byte) : BitVec 3 := attr.extractLsb' 0 3

def attrPaper (attr : Byte) : BitVec 3 := attr.extractLsb' 3 3

def attrBright (attr : Byte) : Bool := attr.getLsbD 6

def attrFlash (attr : Byte) : Bool := attr.getLsbD 7

/-! ### Video-memory addresses -/

/-- A field of a coordinate as a 16-bit value: `v[lo + width - 1 : lo]`. -/
def coordField (v lo width : Nat) : Word := BitVec.ofNat 16 (v / 2 ^ lo % 2 ^ width)

/-- The address of the bitmap byte of a pixel (R91, R162):
`0x4000 | (y[7:6] << 11) | (y[2:0] << 8) | (y[5:3] << 5) | x[7:3]`. -/
def bitmapAddr (x : Fin 256) (y : Fin 192) : Word :=
  bitmapBase ||| coordField y 6 2 <<< 11 ||| coordField y 0 3 <<< 8 ||| coordField y 3 3 <<< 5
    ||| coordField x 3 5

/-- The address of the attribute byte of a pixel (R93, R163): `0x5800 + y[7:3] * 32 + x[7:3]`. -/
def attrAddr (x : Fin 256) (y : Fin 192) : Word :=
  attrBase + coordField y 3 5 * 32 + coordField x 3 5

/-- The bit of a bitmap byte a column selects, `byte[7 - x[2:0]]` (R57, R92). -/
def pixelBit (bitmap : Byte) (x : Fin 256) : Bool := bitmap.getLsbD (7 - x.val % 8)

/-! ### Colour -/

/-- The palette index `bright ++ colour` (R94). -/
def paletteIndex (bright : Bool) (colour : BitVec 3) : BitVec 4 := BitVec.ofBool bright ++ colour

/-- `PALETTE[idx]` (R94). -/
def paletteColour (p : Params) (idx : BitVec 4) : Colour := p.palette[idx.toNat]'idx.isLt

/-- Steps 4 and 5 of the decoder, up to the index: the flash swap (R164) and the choice of ink or paper
(R165). -/
def colourIndex (attr : Byte) (flash bit : Bool) : BitVec 4 :=
  let swap := attrFlash attr && flash
  let ink := if swap then attrPaper attr else attrInk attr
  let paper := if swap then attrInk attr else attrPaper attr
  paletteIndex (attrBright attr) (if bit then ink else paper)

/-! ### Keys, cycles and time -/

/-- The coordinate a table gives a host key, if any (R89): its first entry for the key (log 6). -/
def keyCoordinate : List (HostKey × Fin 8 × Fin 5) → HostKey → Option (Fin 8 × Fin 5)
  | [], _ => none
  | (k, coordinate) :: rest, id => if k = id then some coordinate else keyCoordinate rest id

/-- `CYCLES_PER_FRAME = floor(CPU_CLOCK_HZ / FRAME_RATE_HZ)` (R9). -/
def cyclesPerFrame (p : Params) : Nat := p.cpuClockHz / p.frameRateHz

/-- What THROTTLE sleeps (R199): the rest of `FRAME_PERIOD = 1 / FRAME_RATE_HZ` seconds, and nothing when
the frame overran. In units of `1 / FRAME_RATE_HZ` nanoseconds, so that it is exact (log 16); never negative
(R10). -/
def throttleSleep (p : Params) (elapsed : Nat) : Option Nat :=
  if elapsed * p.frameRateHz < 1000000000 then some (1000000000 - elapsed * p.frameRateHz) else none

end Sys2Proof.Machine
end

