-- ==== Sys2Proof/Machine/Flags.lean ====
section
/-! DEFINITION. The block's only flag is `FLASH` (spec/10_state.md R33); its counter and its toggle
(spec/45_frame_sequencer.md R197). -/

namespace Sys2Proof.Machine

/-- `FLASHCNT <- (FLASHCNT + 1) mod 16` (R197). -/
def nextFlashcnt (flashcnt : BitVec 4) : BitVec 4 := flashcnt + 1

/-- `FLASH` after an advance: inverted when the counter wraps to 0 (R197). -/
def nextFlash (flash : Bool) (flashcnt : BitVec 4) : Bool :=
  if nextFlashcnt flashcnt = 0 then !flash else flash

end Sys2Proof.Machine
end

