-- ==== Sys2Proof/Machine/Ops.lean ====
section
/-! DEFINITION. The named operations over memory, the registers, the picture and the history, shared by the
meanings. -/

namespace Sys2Proof.Machine

/-! ### Named updates of the state -/

def State.setMem (s : State) (mem : Memory) : State := { s with mem := mem }

def State.setKrow (s : State) (krow : Vector (BitVec 5) 8) : State := { s with krow := krow }

def State.setBorder (s : State) (border : BitVec 3) : State := { s with border := border }

def State.setFlash (s : State) (flash : Bool) (flashcnt : BitVec 4) : State :=
  { s with flash := flash, flashcnt := flashcnt }

def State.setFcyc (s : State) (fcyc : Nat) : State := { s with fcyc := fcyc }

def State.setPhase (s : State) (phase : Phase) : State := { s with phase := phase }

def State.setPicture (s : State) (pix : Picture) (brgb : Colour) : State :=
  { s with pix := some pix, brgb := some brgb }

def State.setEvents (s : State) (events : List Event) : State := { s with events := events }

def State.setReports (s : State) (reports : List CpuReport) : State := { s with reports := reports }

def State.setScript (s : State) (script : List Record) : State := { s with script := script }

def State.setStarted (s : State) (started : Bool) : State := { s with started := started }

/-- Something leaves the block: a result, a request or an emission (R11). -/
def State.emit (s : State) (o : Output) : State := { s with outputs := o :: s.outputs }

/-! ### Memory (spec/20_memory.md, spec/43_address_space.md) -/

/-- What an address with no cell reads as: the contents at reset (R36). -/
def unlisted (p : Params) (a : Nat) : Byte := if a < p.romSize then p.romImage.getD a 0 else 0

/-- The cell at an address, if one is listed. -/
def memFind : Memory → Nat → Option Byte
  | [], _ => none
  | c :: cs, a => if c.1 = a then some c.2 else memFind cs a

/-- The memory without a cell at `a`. -/
def memErase : Memory → Nat → Memory
  | [], _ => []
  | c :: cs, a => if c.1 = a then memErase cs a else c :: memErase cs a

/-- The memory with the cell `(a, v)` in its place. -/
def memPut : Memory → Nat → Byte → Memory
  | [], a, v => [(a, v)]
  | c :: cs, a, v =>
    if a < c.1 then (a, v) :: c :: cs else if c.1 = a then (a, v) :: cs else c :: memPut cs a v

/-- The byte at an address (R150). -/
def memRead (p : Params) (m : Memory) (a : Nat) : Byte := (memFind m a).getD (unlisted p a)

/-- The memory with the byte `v` at `a`, in canonical form. -/
def memWrite (p : Params) (m : Memory) (a : Nat) (v : Byte) : Memory :=
  if v = unlisted p a then memErase m a else memPut m a v

/-- The canonical form: addresses strictly rising and inside the address space, and no cell that says what
an unlisted address reads as. -/
abbrev Memory.wf (p : Params) (m : Memory) : Prop :=
  m.Pairwise (fun c d => c.1 < d.1) ∧ ∀ c ∈ m, c.1 < memSize ∧ c.2 ≠ unlisted p c.1

/-- `MemRead(addr, 1)` (R11, R150). -/
def State.read (s : State) (addr : Word) : Byte := memRead s.params s.mem addr.toNat

/-- `MemWrite(addr, 1, data)` (R11): stored at and above `ROM_SIZE` (R151), dropped below (R152). -/
def State.write (s : State) (addr : Word) (data : Byte) : State :=
  if s.params.romSize ≤ addr.toNat then s.setMem (memWrite s.params s.mem addr.toNat data) else s

/-! ### Keyboard matrix (spec/41_keyboard_matrix.md) -/

/-- `KROW[row][bit] <- (pressed = 1) ? 0 : 1` (R110). -/
def State.keySet (s : State) (row : Fin 8) (bit : Fin 5) (pressed : Bool) : State :=
  s.setKrow (s.krow.set row (rowWithKey s.krow[row] bit pressed))

/-- A host key event through `KEYMAP` (R112). -/
def State.hostKey (s : State) (id : HostKey) (pressed : Bool) : State :=
  match keyCoordinate s.params.keymap id with
  | some (row, bit) => s.keySet row bit pressed
  | none => s

/-! ### Port (spec/42_port_io.md) -/

/-- The AND of the selected rows of `rows`, from `r` on (R132, the loop). -/
def andRows (krow : Vector (BitVec 5) 8) (mask : Byte) : List (Fin 8) → Byte → Byte
  | [], r => r
  | i :: is, r => andRows krow mask is (if mask.getLsbD i then r &&& rowByte krow[i] else r)

/-- The result of a read of the even port (R132). -/
def keysByte (krow : Vector (BitVec 5) 8) (rowsel : Word) : Byte :=
  andRows krow (rowMask rowsel) [0, 1, 2, 3, 4, 5, 6, 7] 0xFF ||| 0xE0

/-- A port read, split by `port[0]` (R132, R133). -/
def State.portRead (s : State) (port rowsel : Word) : Byte :=
  if portSelected port then keysByte s.krow rowsel else 0xFF

/-- A port write, split by `port[0]` (R130, R131). -/
def State.portWrite (s : State) (port : Word) (data : Byte) : State :=
  if portSelected port then s.setBorder (borderField data) else s

/-! ### Video decoder (spec/44_video_decoder.md) -/

/-- The palette index of a pixel: steps 2 to 5 up to the look-up (R162 to R165). -/
def State.pixelIndex (s : State) (x : Fin 256) (y : Fin 192) : BitVec 4 :=
  colourIndex (s.read (attrAddr x y)) s.flash (pixelBit (s.read (bitmapAddr x y)) x)

/-- `PIXEL x y` (R166). -/
def State.pixel (s : State) (x : Fin 256) (y : Fin 192) : Colour :=
  paletteColour s.params (s.pixelIndex x y)

/-- The colour of step 1, `PALETTE[zext_4(BORDER)]` (R161). -/
def State.borderColour (s : State) : Colour := paletteColour s.params (s.border.setWidth 4)

/-- `PIX` as `VIDEO_DECODE` writes it: the second loop of R160 overwrites every element of the first's. -/
def State.picture (s : State) : Picture := Vector.ofFn fun y => Vector.ofFn fun x => s.pixel x y

/-- `VIDEO_DECODE` (R160). -/
def State.videoDecode (s : State) : State := s.setPicture s.picture s.borderColour

/-! ### Sequencer (spec/45_frame_sequencer.md) -/

/-- `FLASH_ADVANCE` (R197). -/
def State.flashAdvance (s : State) : State :=
  s.setFlash (nextFlash s.flash s.flashcnt) (nextFlashcnt s.flashcnt)

/-- The block takes no exception (spec/60_exceptions.md R231); its one interrupt is a request it makes:
`emit Irq(INT_VECTOR)` (R195). It saves nothing and changes no mode (R236). -/
def State.requestInterrupt (s : State) : State := s.emit (.irq s.params.intVector)

/-- `perform t` of R194: one transaction, its result going to the processor. -/
def State.perform (s : State) : Txn → State
  | .memRd addr => s.emit (.result (s.read addr))
  | .memWr addr data => s.write addr data
  | .ioRd port rowsel => s.emit (.result (s.portRead port rowsel))
  | .ioWr port data => s.portWrite port data

/-- `for t in txns, in order: perform t` (R194). -/
def State.performAll (s : State) : List Txn → State
  | [] => s
  | t :: ts => (s.perform t).performAll ts

/-- The body of POLL (R191, R192): events in order; a quit stops it. -/
def State.pollEvents (s : State) : List Event → State
  | [] => (s.setFcyc 0).setPhase .executing
  | .quit :: _ => s.setPhase .terminated
  | .key id pressed :: es => (s.hostKey id pressed).pollEvents es

/-- The sleep of THROTTLE, if there is one (R199). -/
def State.sleepRest (s : State) : State :=
  match throttleSleep s.params s.elapsed with
  | some amount => s.emit (.sleep amount)
  | none => s

/-- The nine elements as `RESET` leaves them (R260), and the block is reset from then on. The inputs, the
script and the history are not the block's and stay: "The pending-event list of the host is not reset by
the block". -/
def State.resetBlock (s : State) : State :=
  { State.powerOn s.params with
    events := s.events, reports := s.reports, elapsed := s.elapsed, script := s.script
    outputs := s.outputs }

end Sys2Proof.Machine
end

