-- ==== Sys2Proof/Machine/AddressSpace.lean ====
section
/-! DEFINITION. Address-space operations (spec/43_address_space.md). The two writes are refused when the
address selects the other (R80, R12). -/

namespace Sys2Proof.Machine

/-- `MEM_RD` (R150). -/
def execMemRd (addr : Word) (s : State) : Host.Outcome State Fault Refusal :=
  .next (s.emit (.result (s.read addr)))

/-- `MEM_WR.RAM` (R151). -/
def execMemWrRam (addr : Word) (data : Byte) (s : State) : Host.Outcome State Fault Refusal :=
  if s.params.romSize ≤ addr.toNat then .next (s.write addr data) else .refused .notSelected

/-- `MEM_WR.ROM` (R152). -/
def execMemWrRom (addr : Word) (data : Byte) (s : State) : Host.Outcome State Fault Refusal :=
  if s.params.romSize ≤ addr.toNat then .refused .notSelected else .next (s.write addr data)

end Sys2Proof.Machine
end

