-- ==== Sys2Proof/Machine/FrameLoop.lean ====
section
/-! DEFINITION. Frame sequencer operations (spec/45_frame_sequencer.md). A phase operation is refused where
the table of R190 does not enable it. -/

namespace Sys2Proof.Machine

/-- `POLL` (R191). -/
def execPoll (events : List Event) (s : State) : Host.Outcome State Fault Refusal :=
  if s.phase = .polling then .next (s.pollEvents events) else .refused (.notEnabled s.phase)

/-- `QUIT` (R192): in Polling it ends the run; a quit signal raised in another phase "waits in the pending
list until the next POLL" (log 12). -/
def execQuit (s : State) : Host.Outcome State Fault Refusal :=
  if s.phase = .polling then .next (s.setPhase .terminated)
  else if s.phase = .terminated then .refused (.notEnabled s.phase)
  else .next (s.setEvents (s.events ++ [.quit]))

/-- `CPU_STEP` (R194). -/
def execCpuStep (txns : List Txn) (cycles : Nat) (s : State) : Host.Outcome State Fault Refusal :=
  if s.phase = .executing ∧ s.fcyc < cyclesPerFrame s.params then
    .next ((s.performAll txns).setFcyc (s.fcyc + cycles))
  else .refused (.notEnabled s.phase)

/-- `FRAME_IRQ` (R195). -/
def execFrameIrq (s : State) : Host.Outcome State Fault Refusal :=
  if s.phase = .executing ∧ cyclesPerFrame s.params ≤ s.fcyc then
    .next (s.requestInterrupt.setPhase .decoding)
  else .refused (.notEnabled s.phase)

/-- `DECODE` (R196): the picture is decoded with the `FLASH` of before the advance. -/
def execDecode (s : State) : Host.Outcome State Fault Refusal :=
  if s.phase = .decoding then .next (s.videoDecode.flashAdvance.setPhase .presenting)
  else .refused (.notEnabled s.phase)

/-- `FLASH_ADVANCE` (R197). -/
def execFlashAdvance (s : State) : Host.Outcome State Fault Refusal :=
  .next s.flashAdvance

/-- `PRESENT` (R198); a fault when there is no picture to read (R43). -/
def execPresent (s : State) : Host.Outcome State Fault Refusal :=
  if s.phase = .presenting then
    match s.pix, s.brgb with
    | some pix, some brgb => .next ((s.emit (.present pix brgb)).setPhase .throttling)
    | _, _ => .fault .noPicture
  else .refused (.notEnabled s.phase)

/-- `THROTTLE` (R199). -/
def execThrottle (s : State) : Host.Outcome State Fault Refusal :=
  if s.phase = .throttling then .next (s.sleepRest.setPhase .polling)
  else .refused (.notEnabled s.phase)

/-- `RESET` (spec/70_reset_and_hazards.md R260): at power-on only, once, and under the premises on the
parameters of R262 (log 19). -/
def execReset (s : State) : Host.Outcome State Fault Refusal :=
  if s.started then .refused .alreadyReset
  else if s.params.Wf then .next s.resetBlock
  else .refused .parametersInvalid

end Sys2Proof.Machine
end

