-- ==== Sys2Proof/Machine/Keyboard.lean ====
section
/-! DEFINITION. Keyboard matrix operations (spec/41_keyboard_matrix.md). -/

namespace Sys2Proof.Machine

/-- `KEY_SET` (R110). -/
def execKeySet (row : Fin 8) (bit : Fin 5) (pressed : Bool) (s : State) :
    Host.Outcome State Fault Refusal :=
  .next (s.keySet row bit pressed)

/-- `ROW_STATE` (R111); called directly, its result goes to the caller. -/
def execRowState (row : Fin 8) (s : State) : Host.Outcome State Fault Refusal :=
  .next (s.emit (.result (rowByte s.krow[row])))

/-- `HOST_KEY` (R112). -/
def execHostKey (id : HostKey) (pressed : Bool) (s : State) : Host.Outcome State Fault Refusal :=
  .next (s.hostKey id pressed)

end Sys2Proof.Machine
end

