-- ==== Sys2Proof/Machine/PortIo.lean ====
section
/-! DEFINITION. Port operations (spec/42_port_io.md). Each is refused when `port[0]` selects the other
(R80, R12). -/

namespace Sys2Proof.Machine

/-- `IO_WR.BORDER` (R130). -/
def execIoWrBorder (port : Word) (data : Byte) (s : State) : Host.Outcome State Fault Refusal :=
  if portSelected port then .next (s.portWrite port data) else .refused .notSelected

/-- `IO_WR.NOP` (R131). -/
def execIoWrNop (port : Word) (data : Byte) (s : State) : Host.Outcome State Fault Refusal :=
  if portSelected port then .refused .notSelected else .next (s.portWrite port data)

/-- `IO_RD.KEYS` (R132). -/
def execIoRdKeys (port rowsel : Word) (s : State) : Host.Outcome State Fault Refusal :=
  if portSelected port then .next (s.emit (.result (s.portRead port rowsel)))
  else .refused .notSelected

/-- `IO_RD.FLOAT` (R133). -/
def execIoRdFloat (port rowsel : Word) (s : State) : Host.Outcome State Fault Refusal :=
  if portSelected port then .refused .notSelected
  else .next (s.emit (.result (s.portRead port rowsel)))

end Sys2Proof.Machine
end

