-- ==== Sys2Proof/Machine/Video.lean ====
section
/-! DEFINITION. Video decoder operations (spec/44_video_decoder.md). -/

namespace Sys2Proof.Machine

/-- `PIXEL` (R166); called directly, its result goes to the caller. -/
def execPixel (x : Fin 256) (y : Fin 192) (s : State) : Host.Outcome State Fault Refusal :=
  .next (s.emit (.colour (s.pixel x y)))

/-- `VIDEO_DECODE` (R160). -/
def execVideoDecode (s : State) : Host.Outcome State Fault Refusal :=
  .next s.videoDecode

end Sys2Proof.Machine
end

