-- ==== Sys2Proof/Machine/Dispatch.lean ====
section
/-! DEFINITION. One arm per operation of spec/opcode_table.json. -/

namespace Sys2Proof.Machine

def exec (i : Instr) (s : State) : Host.Outcome State Fault Refusal :=
  match i with
  | .keySet row bit pressed => Sys2Proof.Machine.execKeySet row bit pressed s
  | .rowState row => Sys2Proof.Machine.execRowState row s
  | .hostKey id pressed => Sys2Proof.Machine.execHostKey id pressed s
  | .ioWrBorder port data => Sys2Proof.Machine.execIoWrBorder port data s
  | .ioWrNop port data => Sys2Proof.Machine.execIoWrNop port data s
  | .ioRdKeys port rowsel => Sys2Proof.Machine.execIoRdKeys port rowsel s
  | .ioRdFloat port rowsel => Sys2Proof.Machine.execIoRdFloat port rowsel s
  | .memRd addr => Sys2Proof.Machine.execMemRd addr s
  | .memWrRam addr data => Sys2Proof.Machine.execMemWrRam addr data s
  | .memWrRom addr data => Sys2Proof.Machine.execMemWrRom addr data s
  | .pixel x y => Sys2Proof.Machine.execPixel x y s
  | .videoDecode => Sys2Proof.Machine.execVideoDecode s
  | .poll events => Sys2Proof.Machine.execPoll events s
  | .quit => Sys2Proof.Machine.execQuit s
  | .cpuStep txns cycles => Sys2Proof.Machine.execCpuStep txns cycles s
  | .frameIrq => Sys2Proof.Machine.execFrameIrq s
  | .decode => Sys2Proof.Machine.execDecode s
  | .flashAdvance => Sys2Proof.Machine.execFlashAdvance s
  | .present => Sys2Proof.Machine.execPresent s
  | .throttle => Sys2Proof.Machine.execThrottle s
  | .reset => Sys2Proof.Machine.execReset s

end Sys2Proof.Machine
end

