-- ==== Sys2Proof/Machine/Fetch.lean ====
section
/-! DEFINITION. Which operation a step performs (log 2): a pending script line (spec/30_encoding.md R98) if
there is one; otherwise the one the phase enables (spec/45_frame_sequencer.md R190), its operands taken
from the pending events and from the processor's reports. -/

namespace Sys2Proof.Machine

/-- The operation `PHASE` selects and the state with its operands taken from the inputs (R27, R190). -/
def sequencerFetch (s : State) : Except (Fault ⊕ Refusal) (Instr × State) :=
  match s.phase with
  | .polling => .ok (.poll s.events, s.setEvents [])
  | .executing =>
    if s.fcyc < cyclesPerFrame s.params then
      match s.reports with
      | [] => .error (.inr .awaitingProcessor)
      | r :: rs => .ok (.cpuStep r.txns r.cycles, s.setReports rs)
    else .ok (.frameIrq, s)
  | .decoding => .ok (.decode, s)
  | .presenting => .ok (.present, s)
  | .throttling => .ok (.throttle, s)
  | .terminated => .error (.inl .terminated)

/-- The operation at power-on: `RESET`, before every other (R260, R80), called by the script's first line or
else performed by itself (log 19). -/
def powerOnFetch (s : State) : Except (Fault ⊕ Refusal) (Instr × State) :=
  match s.script with
  | [] => .ok (.reset, s)
  | r :: rest =>
    match decode s.params.romSize r with
    | .ok .reset => .ok (.reset, s.setScript rest)
    | .ok _ => .error (.inr .notReset)
    | .error e => .error (.inr (.undecodable e))

/-- The operation the next step performs. Nothing is performed in Terminated (R192). -/
def fetch (s : State) : Except (Fault ⊕ Refusal) (Instr × State) :=
  if s.started = false then powerOnFetch s
  else if s.phase = .terminated then .error (.inl .terminated)
  else
    match s.script with
    | [] => sequencerFetch s
    | r :: rest =>
      match decode s.params.romSize r with
      | .ok i => .ok (i, s.setScript rest)
      | .error e => .error (.inr (.undecodable e))

/-- The state in which the table's `selected_by` condition holds for an operation (R80, R190): power-on for
`RESET`, a block that has been reset for every other; for those with a condition on `PHASE` and `FCYC`,
that; for the rest, any phase but Terminated. -/
def selectPhase (s : State) : Instr → State
  | .reset => s.setStarted false
  | .poll _ | .quit => (s.setStarted true).setPhase .polling
  | .cpuStep _ _ => ((s.setStarted true).setFcyc 0).setPhase .executing
  | .frameIrq => ((s.setStarted true).setFcyc (cyclesPerFrame s.params)).setPhase .executing
  | .decode => (s.setStarted true).setPhase .decoding
  | .present => (s.setStarted true).setPhase .presenting
  | .throttle => (s.setStarted true).setPhase .throttling
  | .keySet _ _ _ | .rowState _ | .hostKey _ _ | .ioWrBorder _ _ | .ioWrNop _ _ | .ioRdKeys _ _
  | .ioRdFloat _ _ | .memRd _ | .memWrRam _ _ | .memWrRom _ _ | .pixel _ _ | .videoDecode
  | .flashAdvance =>
    if s.phase = .terminated then (s.setStarted true).setPhase .polling else s.setStarted true

/-- The state whose next step performs the record `r`: the record is the first script line, and the
state is one that selects it. -/
def placeRecord (s : State) (r : Record) : State :=
  let t := s.setScript (r :: s.script)
  match decode s.params.romSize r with
  | .ok i => selectPhase t i
  | .error _ => t

end Sys2Proof.Machine
end

