-- ==== Sys2Proof/Machine/Step.lean ====
section
/-! DEFINITION. One step of the machine: fetch the operation that is next (log 2) and perform it. -/

namespace Sys2Proof.Machine

def step (s : State) : Host.Outcome State Fault Refusal :=
  match fetch s with
  | .ok (i, s') => exec i s'
  | .error (.inl f) => .fault f
  | .error (.inr r) => .refused r

/-- The state whose next step performs exactly the operation of the bits `w` of spec/opcode_table.json
(log 1, log 2). -/
def State.withFetchWord (s : State) (nbits w : Nat) : State :=
  placeRecord s (recordOfBits (w % 2 ^ nbits))

end Sys2Proof.Machine
end

