-- ==== Sys2Proof/Safety.lean ====
section
/-! DEFINITION. What claims about runs are stated with: the invariant of the machine, the system level, the
premise on the processor, and what a history says. -/

namespace Sys2Proof.Machine

/-- The system level (spec/45_frame_sequencer.md R190, R202): the block has been reset and no operation is
called directly, so every step is the one its phase enables. -/
abbrev State.SystemLevel (s : State) : Prop := s.started = true ∧ s.script = []

/-- `CPU_PROGRESS` (spec/92_eei_decisions.md D15): every step the processor reports took a cycle. -/
abbrev CpuProgress (reports : List CpuReport) : Prop := ∀ r ∈ reports, 1 ≤ r.cycles

/-- No cell of memory is in the read-only region, so `MEM[a] = ROM_IMAGE[a]` there (R153). -/
abbrev State.RomIntact (s : State) : Prop := ∀ c ∈ s.mem, s.params.romSize ≤ c.1

/-- A picture and a border colour exist whenever PRESENT is next (R43, R190). -/
abbrev State.PictureReady (s : State) : Prop :=
  s.phase = .presenting → s.pix ≠ none ∧ s.brgb ≠ none

/-- Every pixel is an entry of `PALETTE` (R28, R169 a). -/
abbrev State.PictureInPalette (s : State) : Prop :=
  ∀ pix, s.pix = some pix → ∀ (y : Fin 192) (x : Fin 256), ∃ i : Fin 16, pix[y][x] = s.params.palette[i]

/-- The border colour is a normal entry of `PALETTE` (R161, R169 f). -/
abbrev State.BorderInPalette (s : State) : Prop :=
  ∀ c, s.brgb = some c → ∃ i : Fin 16, i.val < 8 ∧ c = s.params.palette[i]

/-- The invariant of the machine. -/
structure State.Inv (s : State) : Prop where
  params : s.params.Wf
  memory : Memory.wf s.params s.mem
  rom    : s.RomIntact
  ready  : s.PictureReady
  pixels : s.PictureInPalette
  border : s.BorderInPalette

/-- How many interrupt requests a history holds (R200). -/
def irqCount : List Output → Nat
  | [] => 0
  | .irq _ :: os => irqCount os + 1
  | _ :: os => irqCount os

/-- How many pictures a history has handed over (R198). -/
def presentCount : List Output → Nat
  | [] => 0
  | .present _ _ :: os => presentCount os + 1
  | _ :: os => presentCount os

/-- `FLASH` and `FLASHCNT` as one number: how many frames of the 32-frame flash cycle are decoded. -/
def State.flashAge (s : State) : Nat := s.flash.toNat * 16 + s.flashcnt.toNat

end Sys2Proof.Machine
end

