-- ==== Sys2Proof/Certificates/Slice0/Obligations.lean ====
section
/-! DEFINITION. The statements for the provers. A record update such as `{ s with border := b }` says the
whole frame: every other field of the state, memory and history included, is as before. -/

open Sys2Proof Sys2Proof.Machine

/-! ### Keyboard matrix -/

/-- R110: `KROW[row][bit] <- (pressed = 1) ? 0 : 1`; all other bits and rows keep their values. -/
def Obligations.KeySetWritesOneBit : Prop :=
  ∀ (s : State) (row : Fin 8) (bit : Fin 5) (pressed : Bool),
    ∃ krow, exec (.keySet row bit pressed) s = .next { s with krow := krow } ∧
      ∀ (r : Fin 8) (b : Fin 5),
        krow[r].getLsbD b = if r = row ∧ b = bit then !pressed else s.krow[r].getLsbD b

/-- R111: the row under three ones, never below `0xE0`; nothing else changes. -/
def Obligations.RowStateReturnsRowUnderThreeOnes : Prop :=
  ∀ (s : State) (row : Fin 8),
    ∃ v : Byte, exec (.rowState row) s = .next { s with outputs := .result v :: s.outputs } ∧
      v = 0xE0 ||| s.krow[row].setWidth 8 ∧ 0xE0 ≤ v.toNat

/-- R112: a mapped key acts as `KEY_SET` on its coordinate, an unmapped one does nothing. -/
def Obligations.HostKeyFollowsKeymap : Prop :=
  ∀ (s : State) (id : HostKey) (pressed : Bool),
    (∀ row bit, keyCoordinate s.params.keymap id = some (row, bit) →
      ∃ t, exec (.hostKey id pressed) s = .next t ∧ exec (.keySet row bit pressed) s = .next t) ∧
    (keyCoordinate s.params.keymap id = none → exec (.hostKey id pressed) s = .next s)

/-- R113: of two events on keys of one coordinate the last one decides; press `a`, press `b`, release `a`
leaves the bit released. -/
def Obligations.LastEventOnACoordinateWins : Prop :=
  ∀ (s : State) (a b : HostKey) (row : Fin 8) (bit : Fin 5),
    keyCoordinate s.params.keymap a = some (row, bit) →
    keyCoordinate s.params.keymap b = some (row, bit) →
    (∀ p q : Bool, ∃ t, exec (.hostKey a p) s = .next t ∧
      exec (.hostKey b q) t = exec (.hostKey b q) s) ∧
    ∃ s1 s2 s3, exec (.hostKey a true) s = .next s1 ∧ exec (.hostKey b true) s1 = .next s2 ∧
      exec (.hostKey a false) s2 = .next s3 ∧ s3.krow[row].getLsbD bit = true

/-- R115: from all keys released, a mapped key pressed clears its bit of a read with every row selected
and no other; released, the read is `0xFF` again. -/
def Obligations.PressedKeyShowsInFullRead : Prop :=
  ∀ (s : State) (id : HostKey) (row : Fin 8) (bit : Fin 5) (port rowsel : Word),
    s.krow = Vector.replicate 8 0b11111 → keyCoordinate s.params.keymap id = some (row, bit) →
    port.getLsbD 0 = false → rowsel.toNat < 256 →
    ∃ t u v, exec (.hostKey id true) s = .next t ∧
      exec (.ioRdKeys port rowsel) t = .next { t with outputs := .result v :: t.outputs } ∧
      (∀ b : Fin 8, v.getLsbD b = !decide (b.val = bit.val)) ∧
      exec (.hostKey id false) t = .next u ∧
      exec (.ioRdKeys port rowsel) u = .next { u with outputs := .result 0xFF :: u.outputs }

/-! ### Port -/

/-- R130: `BORDER <- data[3:1]`, for every even port. -/
def Obligations.EvenPortWriteLatchesBorder : Prop :=
  ∀ (s : State) (port : Word) (data : Byte), port.getLsbD 0 = false →
    ∃ b : BitVec 3, exec (.ioWrBorder port data) s = .next { s with border := b } ∧
      ∀ i : Fin 3, b.getLsbD i = data.getLsbD (i + 1)

/-- R131: a write to an odd port leaves the whole state as it was. -/
def Obligations.OddPortWriteDoesNothing : Prop :=
  ∀ (s : State) (port : Word) (data : Byte), port.getLsbD 0 = true →
    exec (.ioWrNop port data) s = .next s

/-- R85, R132: bits 7 to 5 are ones; bit `b` is 0 exactly when a selected row has the key of column `b`
pressed. -/
def Obligations.KeysReadShowsSelectedRows : Prop :=
  ∀ (s : State) (port rowsel : Word), port.getLsbD 0 = false →
    ∃ v : Byte, exec (.ioRdKeys port rowsel) s = .next { s with outputs := .result v :: s.outputs } ∧
      (v.getLsbD 5 = true ∧ v.getLsbD 6 = true ∧ v.getLsbD 7 = true) ∧
      ∀ b : Fin 5, v.getLsbD b = false ↔
        ∃ i : Fin 8, rowsel.getLsbD (8 + i) = false ∧ s.krow[i].getLsbD b = false

/-- R135 (c): the result for a union of selected rows is the AND of the results (a row is selected by a 0,
so the union is the AND of the operands). -/
def Obligations.KeysReadOfUnionIsAnd : Prop :=
  ∀ (s : State) (port r1 r2 : Word), port.getLsbD 0 = false →
    ∃ v1 v2 : Byte,
      exec (.ioRdKeys port r1) s = .next { s with outputs := .result v1 :: s.outputs } ∧
      exec (.ioRdKeys port r2) s = .next { s with outputs := .result v2 :: s.outputs } ∧
      exec (.ioRdKeys port (r1 &&& r2)) s =
        .next { s with outputs := .result (v1 &&& v2) :: s.outputs }

/-- R133: a read of an odd port returns `0xFF`. -/
def Obligations.OddPortReadReturnsAllOnes : Prop :=
  ∀ (s : State) (port rowsel : Word), port.getLsbD 0 = true →
    exec (.ioRdFloat port rowsel) s = .next { s with outputs := .result 0xFF :: s.outputs }

/-- R134, R30: a port read depends on its operands and `KROW` only: not on `BORDER`, memory or anything
else. -/
def Obligations.PortReadDependsOnKeysOnly : Prop :=
  ∀ (s t : State) (port rowsel : Word), s.krow = t.krow →
    ∃ v : Byte, ∀ i ∈ [Instr.ioRdKeys port rowsel, Instr.ioRdFloat port rowsel],
      i.wf s.params.romSize = true →
      exec i s = .next { s with outputs := .result v :: s.outputs } ∧
      exec i t = .next { t with outputs := .result v :: t.outputs }

/-! ### Address space -/

/-- R150: a read answers the byte at the address: the listed cell's, or else what `RESET` put there (R36):
0 from `ROM_SIZE` up and, with a `ROM_IMAGE` of `ROM_SIZE` bytes (R262), `ROM_IMAGE[addr]` below it, which
is what any address there answers as long as no cell lies in the read-only region. Nothing else changes. -/
def Obligations.MemReadAnswersTheByte : Prop :=
  ∀ (s : State) (addr : Word), Memory.wf s.params s.mem →
    ∃ v : Byte, exec (.memRd addr) s = .next { s with outputs := .result v :: s.outputs } ∧
      (∀ b, (addr.toNat, b) ∈ s.mem → v = b) ∧
      ((∀ c ∈ s.mem, c.1 ≠ addr.toNat) → s.params.romSize ≤ addr.toNat → v = 0) ∧
      (s.params.romImage.length = s.params.romSize → addr.toNat < s.params.romSize →
        ((∀ c ∈ s.mem, c.1 ≠ addr.toNat) → s.params.romImage[addr.toNat]? = some v) ∧
        (s.RomIntact → s.params.romImage[addr.toNat]? = some v))

/-- R151: the byte is stored, no other byte changes, and nothing but memory changes. -/
def Obligations.RamWriteStoresOneByte : Prop :=
  ∀ (s : State) (addr : Word) (data : Byte), Memory.wf s.params s.mem →
    s.params.romSize ≤ addr.toNat →
    ∃ mem, exec (.memWrRam addr data) s = .next { s with mem := mem } ∧
      ∀ a : Word, memRead s.params mem a.toNat =
        if a = addr then data else memRead s.params s.mem a.toNat

/-- R152: a write below `ROM_SIZE` is dropped. -/
def Obligations.RomWriteIsDropped : Prop :=
  ∀ (s : State) (addr : Word) (data : Byte), addr.toNat < s.params.romSize →
    exec (.memWrRom addr data) s = .next s

/-! ### Video decoder -/

/-- R91 (and 90_conflicts.md C6): the address as a concatenation of fields, as the source's formula in
C's grouping and grouped from left to right, and as a plain sum; it lies in the bitmap plane. -/
def Obligations.BitmapAddrIsInterleaved : Prop :=
  ∀ (x : Fin 256) (y : Fin 192),
    let xb := BitVec.ofNat 8 x
    let yb := BitVec.ofNat 8 y
    let n := (bitmapAddr x y).toNat
    bitmapAddr x y = 0b010#3 ++ yb.extractLsb' 6 2 ++ yb.extractLsb' 0 3 ++ yb.extractLsb' 3 3
      ++ xb.extractLsb' 3 5 ∧
    n = (0x4000 + ((y.val &&& 0xC0) <<< 5)) ||| ((y.val &&& 0x07) <<< 8)
      ||| (((y.val &&& 0x38) <<< 2) + x.val >>> 3) ∧
    n = ((0x4000 + ((y.val &&& 0xC0) <<< 5)) ||| ((y.val &&& 0x07) <<< 8)
      ||| ((y.val &&& 0x38) <<< 2)) + x.val >>> 3 ∧
    n = 0x4000 + y.val / 64 * 2048 + y.val % 8 * 256 + y.val / 8 % 8 * 32 + x.val / 8 ∧
    0x4000 ≤ n ∧ n ≤ 0x57FF

/-- R93: the attribute address, as the source's formula and as a concatenation, in the attribute plane. -/
def Obligations.AttrAddrIsLinear : Prop :=
  ∀ (x : Fin 256) (y : Fin 192),
    let xb := BitVec.ofNat 8 x
    let yb := BitVec.ofNat 8 y
    let n := (attrAddr x y).toNat
    n = 0x5800 + y.val / 8 * 32 + x.val / 8 ∧
    attrAddr x y = 0b010110#6 ++ yb.extractLsb' 3 5 ++ xb.extractLsb' 3 5 ∧
    0x5800 ≤ n ∧ n ≤ 0x5AFF

/-- R52: every address of the bitmap plane is the address of exactly the 8 pixels of one `(y, x / 8)`, and
every one of the attribute plane of exactly the 64 pixels of one cell. -/
def Obligations.PlanesAreCoveredExactly : Prop :=
  (∀ (x x' : Fin 256) (y y' : Fin 192),
    (bitmapAddr x y = bitmapAddr x' y' ↔ y = y' ∧ x.val / 8 = x'.val / 8) ∧
    (attrAddr x y = attrAddr x' y' ↔ y.val / 8 = y'.val / 8 ∧ x.val / 8 = x'.val / 8)) ∧
  (∀ a : Word, 0x4000 ≤ a.toNat → a.toNat ≤ 0x57FF → ∃ x y, bitmapAddr x y = a) ∧
  (∀ a : Word, 0x5800 ≤ a.toNat → a.toNat ≤ 0x5AFF → ∃ x y, attrAddr x y = a)

/-- R166: the colour of a pixel, written with the source's address formulas. -/
def Obligations.PixelColourFollowsSteps2To5 : Prop :=
  ∀ (s : State) (x : Fin 256) (y : Fin 192),
    let bitmap := memRead s.params s.mem
      (0x4000 + y.val / 64 * 2048 + y.val % 8 * 256 + y.val / 8 % 8 * 32 + x.val / 8)
    let attr := memRead s.params s.mem (0x5800 + y.val / 8 * 32 + x.val / 8)
    let swapped : Prop := attr.getLsbD 7 = true ∧ s.flash = true
    let ink := if swapped then attr.toNat / 8 % 8 else attr.toNat % 8
    let paper := if swapped then attr.toNat % 8 else attr.toNat / 8 % 8
    ∃ i : Fin 16,
      exec (.pixel x y) s = .next { s with outputs := .colour s.params.palette[i] :: s.outputs } ∧
      i.val = (if attr.getLsbD 6 = true then 8 else 0) +
        (if bitmap.getLsbD (7 - x.val % 8) = true then ink else paper)

/-- R160, R161: every pixel has its `PIXEL` colour and `BRGB` (an output of the spec's decision D10) is
`PALETTE[BORDER]`; nothing else changes. -/
def Obligations.VideoDecodeWritesPictureAndBorder : Prop :=
  ∀ s : State, ∃ (pix : Picture) (i : Fin 16), i.val = s.border.toNat ∧
    exec .videoDecode s = .next { s with pix := some pix, brgb := some s.params.palette[i] } ∧
    ∀ (x : Fin 256) (y : Fin 192),
      exec (.pixel x y) s = .next { s with outputs := .colour pix[y][x] :: s.outputs }

/-- R168: equal video memory, flash state and palette give equal pictures, and with equal border latches
equal border colours; other bytes of memory, and for the picture the border (R167), have no effect. -/
def Obligations.DecodeIsAFunctionOfVideoMemory : Prop :=
  ∀ s t : State, s.params.palette = t.params.palette → s.flash = t.flash →
    (∀ a : Word, 0x4000 ≤ a.toNat → a.toNat ≤ 0x5AFF →
      memRead s.params s.mem a.toNat = memRead t.params t.mem a.toNat) →
    ∃ pix c d, exec .videoDecode s = .next { s with pix := some pix, brgb := some c } ∧
      exec .videoDecode t = .next { t with pix := some pix, brgb := some d } ∧
      (s.border = t.border → c = d)

/-- R169 (b): a pixel is the ink or the paper colour of its cell's attribute byte, in the half of the
palette its bright bit selects. -/
def Obligations.CellShowsTwoColours : Prop :=
  ∀ (s : State) (x : Fin 256) (y : Fin 192),
    let attr := memRead s.params s.mem (0x5800 + y.val / 8 * 32 + x.val / 8)
    ∃ i : Fin 16,
      exec (.pixel x y) s = .next { s with outputs := .colour s.params.palette[i] :: s.outputs } ∧
      (i.val = attr.toNat / 64 % 2 * 8 + attr.toNat % 8 ∨
        i.val = attr.toNat / 64 % 2 * 8 + attr.toNat / 8 % 8)

/-- R169 (c): a memory write changes only the pixels whose bitmap or attribute byte it is. -/
def Obligations.OneWriteChangesOnlyItsPixels : Prop :=
  ∀ (s : State) (addr : Word) (data : Byte) (x : Fin 256) (y : Fin 192),
    Memory.wf s.params s.mem → s.params.romSize ≤ addr.toNat →
    bitmapAddr x y ≠ addr → attrAddr x y ≠ addr →
    ∃ t c, exec (.memWrRam addr data) s = .next t ∧
      exec (.pixel x y) s = .next { s with outputs := .colour c :: s.outputs } ∧
      exec (.pixel x y) t = .next { t with outputs := .colour c :: t.outputs }

/-- R164, R169 (d, e): a flashing cell decoded with `FLASH = 1` is the cell with ink and paper exchanged
decoded with `FLASH = 0`; in a cell that does not flash, `FLASH` has no effect. -/
def Obligations.FlashExchangesInkAndPaper : Prop :=
  ∀ (s t : State) (x : Fin 256) (y : Fin 192), s.params = t.params → s.flash = true →
    t.flash = false → s.read (bitmapAddr x y) = t.read (bitmapAddr x y) →
    let a := s.read (attrAddr x y)
    let b := t.read (attrAddr x y)
    (a.getLsbD 7 = true ∧ a.getLsbD 6 = b.getLsbD 6 ∧ a.extractLsb' 0 3 = b.extractLsb' 3 3 ∧
        a.extractLsb' 3 3 = b.extractLsb' 0 3 ∨ a.getLsbD 7 = false ∧ a = b) →
    ∃ c, exec (.pixel x y) s = .next { s with outputs := .colour c :: s.outputs } ∧
      exec (.pixel x y) t = .next { t with outputs := .colour c :: t.outputs }

/-! ### Frame sequencer: the operations -/

/-- R191: without a quit the events are applied in order (the spec's decision D26), `FCYC` becomes 0 (D14)
and Executing is next. -/
def Obligations.PollAppliesEventsInOrder : Prop :=
  ∀ (s : State) (events : List Event), s.phase = .polling → Event.quit ∉ events →
    ∃ t, exec (.poll events) s = .next t ∧
      t = { s with krow := t.krow, fcyc := 0, phase := .executing } ∧
      (events = [] → t.krow = s.krow) ∧
      ∀ id pressed rest, events = .key id pressed :: rest →
        ∃ u, exec (.hostKey id pressed) s = .next u ∧ exec (.poll rest) u = .next t

/-- R192: POLL stops at a quit: the events before it are applied, those after it are not, `FCYC` is not
reset (the spec's decision D16). A quit signal in another phase waits in the pending list (log 12); in
Terminated nothing is performed (D23, log 21). -/
def Obligations.QuitEndsTheRunInPolling : Prop :=
  (∀ (s : State) (before after : List Event), s.phase = .polling → Event.quit ∉ before →
    ∃ t, exec (.poll before) s = .next t ∧ exec (.poll (before ++ .quit :: after)) s =
      .next { s with krow := t.krow, phase := .terminated }) ∧
  (∀ s : State, s.phase = .polling → exec .quit s = .next { s with phase := .terminated }) ∧
  (∀ s : State, s.phase ≠ .polling → s.phase ≠ .terminated →
    exec .quit s = .next { s with events := s.events ++ [.quit] }) ∧
  (∀ s : State, s.started = true → s.phase = .terminated → step s = .fault .terminated)

/-- R194: with no transaction a step only adds its cycles (any natural number, the spec's decision D15);
with one first, that transaction is the operation its record selects, performed first, and the rest
follows. -/
def Obligations.CpuStepPerformsTransactionsInOrder : Prop :=
  ∀ (s : State) (cycles : Nat), s.phase = .executing → s.fcyc < cyclesPerFrame s.params →
    exec (.cpuStep [] cycles) s = .next { s with fcyc := s.fcyc + cycles } ∧
    ∀ (x : Txn) (xs : List Txn), ∃ i t,
      decode s.params.romSize ⟨(encodeTxn x).format, [], (encodeTxn x).values⟩ = .ok i ∧
      exec i s = .next t ∧ exec (.cpuStep (x :: xs) cycles) s = exec (.cpuStep xs cycles) t

/-- R194, R135 (e): whatever the transactions, a step completes, adds its cycles and changes nothing but
`MEM`, `BORDER`, `FCYC` and the history, which only grows; no byte below `ROM_SIZE` changes. -/
def Obligations.CpuStepCompletesAndKeepsTheRest : Prop :=
  ∀ (s : State) (txns : List Txn) (cycles : Nat), s.phase = .executing →
    s.fcyc < cyclesPerFrame s.params → Memory.wf s.params s.mem →
    ∃ mem border results, exec (.cpuStep txns cycles) s =
        .next { s with mem := mem, border := border, fcyc := s.fcyc + cycles
                       outputs := results ++ s.outputs } ∧
      Memory.wf s.params mem ∧
      ∀ a, a < s.params.romSize → memRead s.params mem a = memRead s.params s.mem a

/-- R195: one request with `INT_VECTOR`, and Decoding is next; nothing else changes: no pending bit, no
acknowledge (the spec's decision D19). -/
def Obligations.FrameIrqEmitsOneRequest : Prop :=
  ∀ s : State, s.phase = .executing → cyclesPerFrame s.params ≤ s.fcyc →
    exec .frameIrq s =
      .next { s with outputs := .irq s.params.intVector :: s.outputs, phase := .decoding }

/-- R196: VIDEO_DECODE with the `FLASH` of before, then FLASH_ADVANCE, then Presenting (the order is the
spec's decision D13). -/
def Obligations.DecodeRendersThenAdvancesFlash : Prop :=
  ∀ s : State, s.phase = .decoding →
    ∃ t u, exec .videoDecode s = .next t ∧ exec .flashAdvance t = .next u ∧
      exec .decode s = .next { u with phase := .presenting }

/-- R197: the counter counts modulo 16 and `FLASH` inverts when it wraps (the counter's form is the spec's
decision D12). -/
def Obligations.FlashAdvanceTogglesEvery16 : Prop :=
  ∀ s : State, ∃ n : BitVec 4, n.toNat = (s.flashcnt.toNat + 1) % 16 ∧
    exec .flashAdvance s =
      .next { s with flash := if s.flashcnt.toNat = 15 then !s.flash else s.flash, flashcnt := n }

/-- R198: the buffer and the border colour (the spec's decision D10) are handed over, and Throttling is
next. -/
def Obligations.PresentHandsOverTheFrame : Prop :=
  ∀ (s : State) (pix : Picture) (c : Colour), s.phase = .presenting → s.pix = some pix →
    s.brgb = some c → exec .present s =
      .next { s with outputs := .present pix c :: s.outputs, phase := .throttling }

/-- R43: reading a picture that has no value is a fault (log 8). -/
def Obligations.PresentWithoutPictureFaults : Prop :=
  ∀ s : State, s.phase = .presenting → s.pix = none ∨ s.brgb = none →
    exec .present s = .fault .noPicture

/-- R199: the rest of the frame period is slept, nothing when the frame overran, and Polling is next. The
units are the model's own (log 16): `elapsed` in nanoseconds, the sleep in `1 / FRAME_RATE_HZ` of one. -/
def Obligations.ThrottleSleepsTheRemainder : Prop :=
  ∀ s : State, s.phase = .throttling →
    ∃ outputs, exec .throttle s = .next { s with outputs := outputs, phase := .polling } ∧
      (s.elapsed * s.params.frameRateHz < 1000000000 →
        ∃ n, outputs = .sleep n :: s.outputs ∧
          n + s.elapsed * s.params.frameRateHz = 1000000000) ∧
      (1000000000 ≤ s.elapsed * s.params.frameRateHz → outputs = s.outputs)

/-- R260, R262: the nine elements after `RESET` at power-on, with parameters that meet the premises, whatever
they held before (several values are the spec's own decisions, log 7); the inputs, the script and the
history stay. So the invariant holds, and `State.reset` is what `RESET` leaves. -/
def Obligations.ResetOperationSetsEveryElement : Prop :=
  exec .reset { State.reset with started := false } = .next State.reset ∧
  ∀ s : State, s.started = false → s.params.Wf → ∃ t, exec .reset s = .next t ∧
    (∀ a, a < s.params.romSize → s.params.romImage[a]? = some (memRead t.params t.mem a)) ∧
    (∀ a, s.params.romSize ≤ a → memRead t.params t.mem a = 0) ∧
    (∀ r : Fin 8, t.krow[r] = 0b11111) ∧ t.border = 0 ∧ t.flash = false ∧ t.flashcnt = 0 ∧
    t.fcyc = 0 ∧ t.phase = .polling ∧ t.pix = none ∧ t.brgb = none ∧ t.params = s.params ∧
    t.events = s.events ∧ t.reports = s.reports ∧ t.elapsed = s.elapsed ∧ t.script = s.script ∧
    t.outputs = s.outputs ∧ t.started = true ∧ t.Inv

/-- R260, R80: at power-on a step performs `RESET`, called by the script or else by itself (log 2, log 19),
and no other operation. A block that has been reset is not reset again, and neither is one whose
parameters break the premises of R262. -/
def Obligations.ResetHappensOnceBeforeEverything : Prop :=
  ∀ s : State,
    (s.started = false →
      (s.script = [] → step s = exec .reset s) ∧
      ∀ r rest, s.script = r :: rest →
        (decode s.params.romSize r = .ok .reset →
          step s = exec .reset { s with script := rest }) ∧
        (∀ i, decode s.params.romSize r = .ok i → i ≠ .reset → step s = .refused .notReset)) ∧
    (s.started = true → exec .reset s = .refused .alreadyReset) ∧
    (s.started = false → ¬ s.params.Wf → exec .reset s = .refused .parametersInvalid) ∧
    ∀ t, s.started = true → step s = .next t → t.started = true

/-- R36, R38: memory at reset is `ROM_IMAGE` below `ROM_SIZE` and 0 from there up, and `BORDER` is 0, for
every choice of the parameters, the one of `State.reset` included. -/
def Obligations.ResetLeavesRomImageZerosAndBlackBorder : Prop :=
  (∀ p : Params, p.romImage.length = p.romSize →
    (∀ a, a < p.romSize → p.romImage[a]? = some (memRead p (State.powerOn p).mem a)) ∧
    (∀ a : Word, p.romSize ≤ a.toNat → memRead p (State.powerOn p).mem a.toNat = 0) ∧
    (State.powerOn p).border = 0) ∧
  State.reset = State.powerOn State.reset.params ∧
  State.reset.params.romImage.length = State.reset.params.romSize

/-- R190: a phase operation is enabled only where the table says; elsewhere it is refused (log 10). -/
def Obligations.PhaseOperationsRefusedElsewhere : Prop :=
  ∀ s : State,
    (s.phase ≠ .polling → ∀ events, exec (.poll events) s = .refused (.notEnabled s.phase)) ∧
    (s.phase ≠ .executing ∨ cyclesPerFrame s.params ≤ s.fcyc →
      ∀ txns c, exec (.cpuStep txns c) s = .refused (.notEnabled s.phase)) ∧
    (s.phase ≠ .executing ∨ s.fcyc < cyclesPerFrame s.params →
      exec .frameIrq s = .refused (.notEnabled s.phase)) ∧
    (s.phase ≠ .decoding → exec .decode s = .refused (.notEnabled s.phase)) ∧
    (s.phase ≠ .presenting → exec .present s = .refused (.notEnabled s.phase)) ∧
    (s.phase ≠ .throttling → exec .throttle s = .refused (.notEnabled s.phase))

/-- R80, R12: an operation whose operands select another row of the table is refused (log 9). -/
def Obligations.UnselectedOperationsRefused : Prop :=
  ∀ (s : State) (port rowsel addr : Word) (data : Byte),
    (port.getLsbD 0 = true → exec (.ioWrBorder port data) s = .refused .notSelected ∧
      exec (.ioRdKeys port rowsel) s = .refused .notSelected) ∧
    (port.getLsbD 0 = false → exec (.ioWrNop port data) s = .refused .notSelected ∧
      exec (.ioRdFloat port rowsel) s = .refused .notSelected) ∧
    (addr.toNat < s.params.romSize → exec (.memWrRam addr data) s = .refused .notSelected) ∧
    (s.params.romSize ≤ addr.toNat → exec (.memWrRom addr data) s = .refused .notSelected)

/-! ### Encoding -/

/-- R80, R98: records written out from the spec's programs, vectors and operation table, at least one for
each family, decode to the operation they stand for. The form of a record is the spec's decision D22, and
its Lean form the model's (log 1). -/
def Obligations.SpecRecordsDecode : Prop :=
  decode 0x4000 ⟨.poll, [⟨.hkey, [7, 1]⟩, ⟨.ev, []⟩], []⟩ = .ok (.poll [.key 7 true, .quit]) ∧
  decode 0x4000 ⟨.step, [⟨.mw, [0x0000, 0xAA]⟩, ⟨.mr, [0x0000]⟩], [4]⟩ =
    .ok (.cpuStep [.memWr 0x0000 0xAA, .memRd 0x0000] 4) ∧
  decode 0x4000 ⟨.iow, [], [0x00FE, 0x0E]⟩ = .ok (.ioWrBorder 0x00FE 0x0E) ∧
  decode 0x4000 ⟨.iow, [], [0x00FF, 0x00]⟩ = .ok (.ioWrNop 0x00FF 0x00) ∧
  decode 0x4000 ⟨.ior, [], [0xFDFE, 0xFDFE]⟩ = .ok (.ioRdKeys 0xFDFE 0xFDFE) ∧
  decode 0x4000 ⟨.ior, [], [0x00FF, 0x0000]⟩ = .ok (.ioRdFloat 0x00FF 0x0000) ∧
  decode 0x4000 ⟨.mw, [], [0x3FFF, 0xAA]⟩ = .ok (.memWrRom 0x3FFF 0xAA) ∧
  decode 0x4000 ⟨.mw, [], [0x4000, 0xAA]⟩ = .ok (.memWrRam 0x4000 0xAA) ∧
  decode 0x4000 ⟨.key, [], [3, 2, 1]⟩ = .ok (.keySet 3 2 true) ∧
  decode 0x4000 ⟨.pxy, [], [255, 191]⟩ = .ok (.pixel 255 191) ∧
  decode 0x4000 ⟨.seq0 .videoDecode, [], []⟩ = .ok .videoDecode ∧
  decode 0x4000 ⟨.seq0 .frameIrq, [], []⟩ = .ok .frameIrq ∧
  decode 0x4000 ⟨.seq0 .reset, [], []⟩ = .ok .reset

/-- Decoding an encoded operation gives it back, with every operand (records: D22, log 1). -/
def Obligations.DecodeOfEncodeIsTheOperation : Prop :=
  ∀ (romSize : Nat) (i : Instr), i.wf romSize = true → decode romSize (encode i) = .ok i

/-- A record that decodes is the encoding of the operation it decodes to, and that operation's operands
select it: every record has one meaning (records: D22, log 1). -/
def Obligations.EncodeOfDecodeIsTheRecord : Prop :=
  ∀ (romSize : Nat) (r : Record) (i : Instr), decode romSize r = .ok i →
    encode i = r ∧ i.wf romSize = true

/-- R114, R97: coordinates out of range are no operation. -/
def Obligations.OutOfRangeCoordinatesRejected : Prop :=
  ∀ (romSize row bit p x y : Nat) (i : Instr),
    (8 ≤ row ∨ 5 ≤ bit → decode romSize ⟨.key, [], [row, bit, p]⟩ ≠ .ok i) ∧
    (8 ≤ row → decode romSize ⟨.row, [], [row]⟩ ≠ .ok i) ∧
    (256 ≤ x ∨ 192 ≤ y → decode romSize ⟨.pxy, [], [x, y]⟩ ≠ .ok i)

/-! ### The machine -/

/-- R98: in a block that has been reset, a pending script line is the operation its record decodes to
(log 2); a line that decodes to none is refused (the model's choice, log 22, from R12 and R114). -/
def Obligations.StepRunsTheDecodedScriptLine : Prop :=
  ∀ (s : State) (r : Record) (rest : List Record), s.started = true → s.phase ≠ .terminated →
    s.script = r :: rest →
    (∀ i, decode s.params.romSize r = .ok i → step s = exec i { s with script := rest }) ∧
    (∀ e, decode s.params.romSize r = .error e → step s = .refused (.undecodable e))

/-- R190, R27: with no script line pending, the phase says which operation runs next; its operands come
from the inputs (log 2, log 3). Executing below the budget waits for a report (log 11). -/
def Obligations.StepRunsThePhaseOperation : Prop :=
  ∀ s : State, s.SystemLevel →
    (s.phase = .polling → step s = exec (.poll s.events) { s with events := [] }) ∧
    (s.phase = .executing → s.fcyc < cyclesPerFrame s.params →
      (s.reports = [] → step s = .refused .awaitingProcessor) ∧
      ∀ q qs, s.reports = q :: qs →
        step s = exec (.cpuStep q.txns q.cycles) { s with reports := qs }) ∧
    (s.phase = .executing → cyclesPerFrame s.params ≤ s.fcyc → step s = exec .frameIrq s) ∧
    (s.phase = .decoding → step s = exec .decode s) ∧
    (s.phase = .presenting → step s = exec .present s) ∧
    (s.phase = .throttling → step s = exec .throttle s)

/-- The invariant holds at reset. -/
def Obligations.ResetMeetsInvariant : Prop := State.reset.Inv

/-- What `OneInterruptPerFrame` and `FlashFollowsTheFrameNumber` assume holds at reset. That `FLASH` and
`FLASHCNT` are 0 there is the spec's decision D12 and the phase its D21 (log 7), and the empty history and
script are the model's (log 4, log 2). -/
def Obligations.ResetStartsTheFrameCount : Prop :=
  State.reset.SystemLevel ∧
  irqCount State.reset.outputs = presentCount State.reset.outputs +
    (if State.reset.phase = .decoding ∨ State.reset.phase = .presenting then 1 else 0) ∧
  State.reset.flashAge =
    (presentCount State.reset.outputs + if State.reset.phase = .presenting then 1 else 0) % 32

/-- The invariant is kept by every step from every state that has it, script lines included. -/
def Obligations.StepKeepsInvariant : Prop :=
  ∀ s t : State, s.Inv → step s = .next t → t.Inv

/-- R153: from a state in which no cell lies in the read-only region, no step puts one there, and with a
`ROM_IMAGE` of `ROM_SIZE` bytes (R262) a read of that region answers `ROM_IMAGE` after the step. -/
def Obligations.StepKeepsReadOnlyRegion : Prop :=
  ∀ s t : State, s.RomIntact → step s = .next t → t.RomIntact ∧ t.params = s.params ∧
    (s.params.romImage.length = s.params.romSize → ∀ a, a < s.params.romSize →
      s.params.romImage[a]? = some (memRead t.params t.mem a))

/-- R31, R202, R272: at the system level `KROW` changes in Polling only, `MEM` and `BORDER` in Executing
only, `FLASH`, `FLASHCNT`, `PIX` and `BRGB` in Decoding only, `FCYC` in Polling and Executing only, and
the phase goes to its successor of R190. -/
def Obligations.EachPhaseOwnsItsState : Prop :=
  ∀ s t : State, s.SystemLevel → step s = .next t →
    t.SystemLevel ∧ t.params = s.params ∧
    (s.phase ≠ .polling → t.krow = s.krow) ∧
    (s.phase ≠ .executing → t.mem = s.mem ∧ t.border = s.border) ∧
    (s.phase ≠ .decoding → t.flash = s.flash ∧ t.flashcnt = s.flashcnt ∧ t.pix = s.pix ∧
      t.brgb = s.brgb) ∧
    (s.phase ≠ .polling → s.phase ≠ .executing → t.fcyc = s.fcyc) ∧
    (t.phase = match s.phase with
      | .polling => if Event.quit ∈ s.events then .terminated else .executing
      | .executing => if s.fcyc < cyclesPerFrame s.params then .executing else .decoding
      | .decoding => .presenting
      | .presenting => .throttling
      | .throttling => .polling
      | .terminated => .terminated)

/-- R200: at the system level the requests made are one for each picture handed over, and one more
between FRAME_IRQ and PRESENT: never more than one per frame. -/
def Obligations.OneInterruptPerFrame : Prop :=
  ∀ s t : State, s.SystemLevel →
    irqCount s.outputs = presentCount s.outputs +
      (if s.phase = .decoding ∨ s.phase = .presenting then 1 else 0) →
    step s = .next t →
    t.SystemLevel ∧ irqCount t.outputs = presentCount t.outputs +
      (if t.phase = .decoding ∨ t.phase = .presenting then 1 else 0)

/-- R203: at the system level `FLASH` and `FLASHCNT` follow the number of frames decoded: frame `n` is
decoded with `FLASH = (n / 16) mod 2` (the schedule rests on the spec's decisions D12 and D13). -/
def Obligations.FlashFollowsTheFrameNumber : Prop :=
  ∀ s t : State, s.SystemLevel →
    s.flashAge = (presentCount s.outputs + if s.phase = .presenting then 1 else 0) % 32 →
    step s = .next t →
    t.SystemLevel ∧
      t.flashAge = (presentCount t.outputs + if t.phase = .presenting then 1 else 0) % 32 ∧
      (s.phase = .decoding → s.flash = decide (presentCount s.outputs / 16 % 2 = 1))

/-- R193, with the premise `CPU_PROGRESS` (D15), the processor's steps to come being the list of reports
(log 3): an Executing phase with enough reports ends, within one step per cycle of the budget left and one
more, in Decoding with one request made and at least the budget consumed. -/
def Obligations.ExecutingEndsUnderProgress : Prop :=
  ∀ s : State, s.SystemLevel → s.phase = .executing → CpuProgress s.reports →
    cyclesPerFrame s.params ≤ s.fcyc + s.reports.length →
    ∃ k t, k ≤ cyclesPerFrame s.params - s.fcyc + 1 ∧ core.run k s = .next t ∧
      t.phase = .decoding ∧ cyclesPerFrame s.params ≤ t.fcyc ∧
      irqCount t.outputs = irqCount s.outputs + 1 ∧
      presentCount t.outputs = presentCount s.outputs

/-- R99: the script `FRAME events steps`, when each CPU_STEP and the FRAME_IRQ is enabled where it
stands, runs one whole frame: back in Polling, with one request, one picture handed over and the cycles
of its steps. That a script runs like this is the model's choice (log 2), that the count is this frame's
alone the spec's decision D14. -/
def Obligations.FrameScriptRunsOneFrame : Prop :=
  ∀ (s : State) (events : List Event) (steps : List (List Txn × Nat)),
    s.started = true → s.phase = .polling → Event.quit ∉ events → s.script = frameRecords events steps →
    (∀ k, k < steps.length → ((steps.take k).map (·.2)).sum < cyclesPerFrame s.params) →
    cyclesPerFrame s.params ≤ (steps.map (·.2)).sum →
    ∃ t, core.run (steps.length + 5) s = .next t ∧ t.phase = .polling ∧ t.script = [] ∧
      t.fcyc = (steps.map (·.2)).sum ∧ irqCount t.outputs = irqCount s.outputs + 1 ∧
      presentCount t.outputs = presentCount s.outputs + 1
end

