-- ==== Sys2Proof/Laws/State.lean ====
section
/-! SUPPORT. One lemma per field per named update of the state. -/

namespace Sys2Proof.Machine

variable (s : State)

@[simp] theorem State.setMem_mem (m : Memory) : (s.setMem m).mem = m := rfl
@[simp] theorem State.setMem_krow (m : Memory) : (s.setMem m).krow = s.krow := rfl
@[simp] theorem State.setMem_border (m : Memory) : (s.setMem m).border = s.border := rfl
@[simp] theorem State.setMem_flash (m : Memory) : (s.setMem m).flash = s.flash := rfl
@[simp] theorem State.setMem_flashcnt (m : Memory) : (s.setMem m).flashcnt = s.flashcnt := rfl
@[simp] theorem State.setMem_fcyc (m : Memory) : (s.setMem m).fcyc = s.fcyc := rfl
@[simp] theorem State.setMem_phase (m : Memory) : (s.setMem m).phase = s.phase := rfl
@[simp] theorem State.setMem_pix (m : Memory) : (s.setMem m).pix = s.pix := rfl
@[simp] theorem State.setMem_brgb (m : Memory) : (s.setMem m).brgb = s.brgb := rfl
@[simp] theorem State.setMem_params (m : Memory) : (s.setMem m).params = s.params := rfl
@[simp] theorem State.setMem_events (m : Memory) : (s.setMem m).events = s.events := rfl
@[simp] theorem State.setMem_reports (m : Memory) : (s.setMem m).reports = s.reports := rfl
@[simp] theorem State.setMem_elapsed (m : Memory) : (s.setMem m).elapsed = s.elapsed := rfl
@[simp] theorem State.setMem_script (m : Memory) : (s.setMem m).script = s.script := rfl
@[simp] theorem State.setMem_outputs (m : Memory) : (s.setMem m).outputs = s.outputs := rfl
@[simp] theorem State.setMem_started (m : Memory) : (s.setMem m).started = s.started := rfl

@[simp] theorem State.setKrow_mem (k : Vector (BitVec 5) 8) : (s.setKrow k).mem = s.mem := rfl
@[simp] theorem State.setKrow_krow (k : Vector (BitVec 5) 8) : (s.setKrow k).krow = k := rfl
@[simp] theorem State.setKrow_border (k : Vector (BitVec 5) 8) : (s.setKrow k).border = s.border := rfl
@[simp] theorem State.setKrow_flash (k : Vector (BitVec 5) 8) : (s.setKrow k).flash = s.flash := rfl
@[simp] theorem State.setKrow_flashcnt (k : Vector (BitVec 5) 8) : (s.setKrow k).flashcnt = s.flashcnt := rfl
@[simp] theorem State.setKrow_fcyc (k : Vector (BitVec 5) 8) : (s.setKrow k).fcyc = s.fcyc := rfl
@[simp] theorem State.setKrow_phase (k : Vector (BitVec 5) 8) : (s.setKrow k).phase = s.phase := rfl
@[simp] theorem State.setKrow_pix (k : Vector (BitVec 5) 8) : (s.setKrow k).pix = s.pix := rfl
@[simp] theorem State.setKrow_brgb (k : Vector (BitVec 5) 8) : (s.setKrow k).brgb = s.brgb := rfl
@[simp] theorem State.setKrow_params (k : Vector (BitVec 5) 8) : (s.setKrow k).params = s.params := rfl
@[simp] theorem State.setKrow_events (k : Vector (BitVec 5) 8) : (s.setKrow k).events = s.events := rfl
@[simp] theorem State.setKrow_reports (k : Vector (BitVec 5) 8) : (s.setKrow k).reports = s.reports := rfl
@[simp] theorem State.setKrow_elapsed (k : Vector (BitVec 5) 8) : (s.setKrow k).elapsed = s.elapsed := rfl
@[simp] theorem State.setKrow_script (k : Vector (BitVec 5) 8) : (s.setKrow k).script = s.script := rfl
@[simp] theorem State.setKrow_outputs (k : Vector (BitVec 5) 8) : (s.setKrow k).outputs = s.outputs := rfl
@[simp] theorem State.setKrow_started (k : Vector (BitVec 5) 8) : (s.setKrow k).started = s.started := rfl

@[simp] theorem State.setBorder_mem (b : BitVec 3) : (s.setBorder b).mem = s.mem := rfl
@[simp] theorem State.setBorder_krow (b : BitVec 3) : (s.setBorder b).krow = s.krow := rfl
@[simp] theorem State.setBorder_border (b : BitVec 3) : (s.setBorder b).border = b := rfl
@[simp] theorem State.setBorder_flash (b : BitVec 3) : (s.setBorder b).flash = s.flash := rfl
@[simp] theorem State.setBorder_flashcnt (b : BitVec 3) : (s.setBorder b).flashcnt = s.flashcnt := rfl
@[simp] theorem State.setBorder_fcyc (b : BitVec 3) : (s.setBorder b).fcyc = s.fcyc := rfl
@[simp] theorem State.setBorder_phase (b : BitVec 3) : (s.setBorder b).phase = s.phase := rfl
@[simp] theorem State.setBorder_pix (b : BitVec 3) : (s.setBorder b).pix = s.pix := rfl
@[simp] theorem State.setBorder_brgb (b : BitVec 3) : (s.setBorder b).brgb = s.brgb := rfl
@[simp] theorem State.setBorder_params (b : BitVec 3) : (s.setBorder b).params = s.params := rfl
@[simp] theorem State.setBorder_events (b : BitVec 3) : (s.setBorder b).events = s.events := rfl
@[simp] theorem State.setBorder_reports (b : BitVec 3) : (s.setBorder b).reports = s.reports := rfl
@[simp] theorem State.setBorder_elapsed (b : BitVec 3) : (s.setBorder b).elapsed = s.elapsed := rfl
@[simp] theorem State.setBorder_script (b : BitVec 3) : (s.setBorder b).script = s.script := rfl
@[simp] theorem State.setBorder_outputs (b : BitVec 3) : (s.setBorder b).outputs = s.outputs := rfl
@[simp] theorem State.setBorder_started (b : BitVec 3) : (s.setBorder b).started = s.started := rfl

@[simp] theorem State.setFlash_mem (f : Bool) (n : BitVec 4) : (s.setFlash f n).mem = s.mem := rfl
@[simp] theorem State.setFlash_krow (f : Bool) (n : BitVec 4) : (s.setFlash f n).krow = s.krow := rfl
@[simp] theorem State.setFlash_border (f : Bool) (n : BitVec 4) : (s.setFlash f n).border = s.border := rfl
@[simp] theorem State.setFlash_flash (f : Bool) (n : BitVec 4) : (s.setFlash f n).flash = f := rfl
@[simp] theorem State.setFlash_flashcnt (f : Bool) (n : BitVec 4) : (s.setFlash f n).flashcnt = n := rfl
@[simp] theorem State.setFlash_fcyc (f : Bool) (n : BitVec 4) : (s.setFlash f n).fcyc = s.fcyc := rfl
@[simp] theorem State.setFlash_phase (f : Bool) (n : BitVec 4) : (s.setFlash f n).phase = s.phase := rfl
@[simp] theorem State.setFlash_pix (f : Bool) (n : BitVec 4) : (s.setFlash f n).pix = s.pix := rfl
@[simp] theorem State.setFlash_brgb (f : Bool) (n : BitVec 4) : (s.setFlash f n).brgb = s.brgb := rfl
@[simp] theorem State.setFlash_params (f : Bool) (n : BitVec 4) : (s.setFlash f n).params = s.params := rfl
@[simp] theorem State.setFlash_events (f : Bool) (n : BitVec 4) : (s.setFlash f n).events = s.events := rfl
@[simp] theorem State.setFlash_reports (f : Bool) (n : BitVec 4) : (s.setFlash f n).reports = s.reports := rfl
@[simp] theorem State.setFlash_elapsed (f : Bool) (n : BitVec 4) : (s.setFlash f n).elapsed = s.elapsed := rfl
@[simp] theorem State.setFlash_script (f : Bool) (n : BitVec 4) : (s.setFlash f n).script = s.script := rfl
@[simp] theorem State.setFlash_outputs (f : Bool) (n : BitVec 4) : (s.setFlash f n).outputs = s.outputs := rfl
@[simp] theorem State.setFlash_started (f : Bool) (n : BitVec 4) : (s.setFlash f n).started = s.started := rfl

@[simp] theorem State.setFcyc_mem (n : Nat) : (s.setFcyc n).mem = s.mem := rfl
@[simp] theorem State.setFcyc_krow (n : Nat) : (s.setFcyc n).krow = s.krow := rfl
@[simp] theorem State.setFcyc_border (n : Nat) : (s.setFcyc n).border = s.border := rfl
@[simp] theorem State.setFcyc_flash (n : Nat) : (s.setFcyc n).flash = s.flash := rfl
@[simp] theorem State.setFcyc_flashcnt (n : Nat) : (s.setFcyc n).flashcnt = s.flashcnt := rfl
@[simp] theorem State.setFcyc_fcyc (n : Nat) : (s.setFcyc n).fcyc = n := rfl
@[simp] theorem State.setFcyc_phase (n : Nat) : (s.setFcyc n).phase = s.phase := rfl
@[simp] theorem State.setFcyc_pix (n : Nat) : (s.setFcyc n).pix = s.pix := rfl
@[simp] theorem State.setFcyc_brgb (n : Nat) : (s.setFcyc n).brgb = s.brgb := rfl
@[simp] theorem State.setFcyc_params (n : Nat) : (s.setFcyc n).params = s.params := rfl
@[simp] theorem State.setFcyc_events (n : Nat) : (s.setFcyc n).events = s.events := rfl
@[simp] theorem State.setFcyc_reports (n : Nat) : (s.setFcyc n).reports = s.reports := rfl
@[simp] theorem State.setFcyc_elapsed (n : Nat) : (s.setFcyc n).elapsed = s.elapsed := rfl
@[simp] theorem State.setFcyc_script (n : Nat) : (s.setFcyc n).script = s.script := rfl
@[simp] theorem State.setFcyc_outputs (n : Nat) : (s.setFcyc n).outputs = s.outputs := rfl
@[simp] theorem State.setFcyc_started (n : Nat) : (s.setFcyc n).started = s.started := rfl

@[simp] theorem State.setPhase_mem (p : Phase) : (s.setPhase p).mem = s.mem := rfl
@[simp] theorem State.setPhase_krow (p : Phase) : (s.setPhase p).krow = s.krow := rfl
@[simp] theorem State.setPhase_border (p : Phase) : (s.setPhase p).border = s.border := rfl
@[simp] theorem State.setPhase_flash (p : Phase) : (s.setPhase p).flash = s.flash := rfl
@[simp] theorem State.setPhase_flashcnt (p : Phase) : (s.setPhase p).flashcnt = s.flashcnt := rfl
@[simp] theorem State.setPhase_fcyc (p : Phase) : (s.setPhase p).fcyc = s.fcyc := rfl
@[simp] theorem State.setPhase_phase (p : Phase) : (s.setPhase p).phase = p := rfl
@[simp] theorem State.setPhase_pix (p : Phase) : (s.setPhase p).pix = s.pix := rfl
@[simp] theorem State.setPhase_brgb (p : Phase) : (s.setPhase p).brgb = s.brgb := rfl
@[simp] theorem State.setPhase_params (p : Phase) : (s.setPhase p).params = s.params := rfl
@[simp] theorem State.setPhase_events (p : Phase) : (s.setPhase p).events = s.events := rfl
@[simp] theorem State.setPhase_reports (p : Phase) : (s.setPhase p).reports = s.reports := rfl
@[simp] theorem State.setPhase_elapsed (p : Phase) : (s.setPhase p).elapsed = s.elapsed := rfl
@[simp] theorem State.setPhase_script (p : Phase) : (s.setPhase p).script = s.script := rfl
@[simp] theorem State.setPhase_outputs (p : Phase) : (s.setPhase p).outputs = s.outputs := rfl
@[simp] theorem State.setPhase_started (p : Phase) : (s.setPhase p).started = s.started := rfl

@[simp] theorem State.setPicture_mem (p : Picture) (c : Colour) : (s.setPicture p c).mem = s.mem := rfl
@[simp] theorem State.setPicture_krow (p : Picture) (c : Colour) : (s.setPicture p c).krow = s.krow := rfl
@[simp] theorem State.setPicture_border (p : Picture) (c : Colour) : (s.setPicture p c).border = s.border := rfl
@[simp] theorem State.setPicture_flash (p : Picture) (c : Colour) : (s.setPicture p c).flash = s.flash := rfl
@[simp] theorem State.setPicture_flashcnt (p : Picture) (c : Colour) : (s.setPicture p c).flashcnt = s.flashcnt := rfl
@[simp] theorem State.setPicture_fcyc (p : Picture) (c : Colour) : (s.setPicture p c).fcyc = s.fcyc := rfl
@[simp] theorem State.setPicture_phase (p : Picture) (c : Colour) : (s.setPicture p c).phase = s.phase := rfl
@[simp] theorem State.setPicture_pix (p : Picture) (c : Colour) : (s.setPicture p c).pix = some p := rfl
@[simp] theorem State.setPicture_brgb (p : Picture) (c : Colour) : (s.setPicture p c).brgb = some c := rfl
@[simp] theorem State.setPicture_params (p : Picture) (c : Colour) : (s.setPicture p c).params = s.params := rfl
@[simp] theorem State.setPicture_events (p : Picture) (c : Colour) : (s.setPicture p c).events = s.events := rfl
@[simp] theorem State.setPicture_reports (p : Picture) (c : Colour) : (s.setPicture p c).reports = s.reports := rfl
@[simp] theorem State.setPicture_elapsed (p : Picture) (c : Colour) : (s.setPicture p c).elapsed = s.elapsed := rfl
@[simp] theorem State.setPicture_script (p : Picture) (c : Colour) : (s.setPicture p c).script = s.script := rfl
@[simp] theorem State.setPicture_outputs (p : Picture) (c : Colour) : (s.setPicture p c).outputs = s.outputs := rfl
@[simp] theorem State.setPicture_started (p : Picture) (c : Colour) : (s.setPicture p c).started = s.started := rfl

@[simp] theorem State.setEvents_mem (e : List Event) : (s.setEvents e).mem = s.mem := rfl
@[simp] theorem State.setEvents_krow (e : List Event) : (s.setEvents e).krow = s.krow := rfl
@[simp] theorem State.setEvents_border (e : List Event) : (s.setEvents e).border = s.border := rfl
@[simp] theorem State.setEvents_flash (e : List Event) : (s.setEvents e).flash = s.flash := rfl
@[simp] theorem State.setEvents_flashcnt (e : List Event) : (s.setEvents e).flashcnt = s.flashcnt := rfl
@[simp] theorem State.setEvents_fcyc (e : List Event) : (s.setEvents e).fcyc = s.fcyc := rfl
@[simp] theorem State.setEvents_phase (e : List Event) : (s.setEvents e).phase = s.phase := rfl
@[simp] theorem State.setEvents_pix (e : List Event) : (s.setEvents e).pix = s.pix := rfl
@[simp] theorem State.setEvents_brgb (e : List Event) : (s.setEvents e).brgb = s.brgb := rfl
@[simp] theorem State.setEvents_params (e : List Event) : (s.setEvents e).params = s.params := rfl
@[simp] theorem State.setEvents_events (e : List Event) : (s.setEvents e).events = e := rfl
@[simp] theorem State.setEvents_reports (e : List Event) : (s.setEvents e).reports = s.reports := rfl
@[simp] theorem State.setEvents_elapsed (e : List Event) : (s.setEvents e).elapsed = s.elapsed := rfl
@[simp] theorem State.setEvents_script (e : List Event) : (s.setEvents e).script = s.script := rfl
@[simp] theorem State.setEvents_outputs (e : List Event) : (s.setEvents e).outputs = s.outputs := rfl
@[simp] theorem State.setEvents_started (e : List Event) : (s.setEvents e).started = s.started := rfl

@[simp] theorem State.setReports_mem (r : List CpuReport) : (s.setReports r).mem = s.mem := rfl
@[simp] theorem State.setReports_krow (r : List CpuReport) : (s.setReports r).krow = s.krow := rfl
@[simp] theorem State.setReports_border (r : List CpuReport) : (s.setReports r).border = s.border := rfl
@[simp] theorem State.setReports_flash (r : List CpuReport) : (s.setReports r).flash = s.flash := rfl
@[simp] theorem State.setReports_flashcnt (r : List CpuReport) : (s.setReports r).flashcnt = s.flashcnt := rfl
@[simp] theorem State.setReports_fcyc (r : List CpuReport) : (s.setReports r).fcyc = s.fcyc := rfl
@[simp] theorem State.setReports_phase (r : List CpuReport) : (s.setReports r).phase = s.phase := rfl
@[simp] theorem State.setReports_pix (r : List CpuReport) : (s.setReports r).pix = s.pix := rfl
@[simp] theorem State.setReports_brgb (r : List CpuReport) : (s.setReports r).brgb = s.brgb := rfl
@[simp] theorem State.setReports_params (r : List CpuReport) : (s.setReports r).params = s.params := rfl
@[simp] theorem State.setReports_events (r : List CpuReport) : (s.setReports r).events = s.events := rfl
@[simp] theorem State.setReports_reports (r : List CpuReport) : (s.setReports r).reports = r := rfl
@[simp] theorem State.setReports_elapsed (r : List CpuReport) : (s.setReports r).elapsed = s.elapsed := rfl
@[simp] theorem State.setReports_script (r : List CpuReport) : (s.setReports r).script = s.script := rfl
@[simp] theorem State.setReports_outputs (r : List CpuReport) : (s.setReports r).outputs = s.outputs := rfl
@[simp] theorem State.setReports_started (r : List CpuReport) : (s.setReports r).started = s.started := rfl

@[simp] theorem State.setScript_mem (r : List Record) : (s.setScript r).mem = s.mem := rfl
@[simp] theorem State.setScript_krow (r : List Record) : (s.setScript r).krow = s.krow := rfl
@[simp] theorem State.setScript_border (r : List Record) : (s.setScript r).border = s.border := rfl
@[simp] theorem State.setScript_flash (r : List Record) : (s.setScript r).flash = s.flash := rfl
@[simp] theorem State.setScript_flashcnt (r : List Record) : (s.setScript r).flashcnt = s.flashcnt := rfl
@[simp] theorem State.setScript_fcyc (r : List Record) : (s.setScript r).fcyc = s.fcyc := rfl
@[simp] theorem State.setScript_phase (r : List Record) : (s.setScript r).phase = s.phase := rfl
@[simp] theorem State.setScript_pix (r : List Record) : (s.setScript r).pix = s.pix := rfl
@[simp] theorem State.setScript_brgb (r : List Record) : (s.setScript r).brgb = s.brgb := rfl
@[simp] theorem State.setScript_params (r : List Record) : (s.setScript r).params = s.params := rfl
@[simp] theorem State.setScript_events (r : List Record) : (s.setScript r).events = s.events := rfl
@[simp] theorem State.setScript_reports (r : List Record) : (s.setScript r).reports = s.reports := rfl
@[simp] theorem State.setScript_elapsed (r : List Record) : (s.setScript r).elapsed = s.elapsed := rfl
@[simp] theorem State.setScript_script (r : List Record) : (s.setScript r).script = r := rfl
@[simp] theorem State.setScript_outputs (r : List Record) : (s.setScript r).outputs = s.outputs := rfl
@[simp] theorem State.setScript_started (r : List Record) : (s.setScript r).started = s.started := rfl

@[simp] theorem State.emit_mem (o : Output) : (s.emit o).mem = s.mem := rfl
@[simp] theorem State.emit_krow (o : Output) : (s.emit o).krow = s.krow := rfl
@[simp] theorem State.emit_border (o : Output) : (s.emit o).border = s.border := rfl
@[simp] theorem State.emit_flash (o : Output) : (s.emit o).flash = s.flash := rfl
@[simp] theorem State.emit_flashcnt (o : Output) : (s.emit o).flashcnt = s.flashcnt := rfl
@[simp] theorem State.emit_fcyc (o : Output) : (s.emit o).fcyc = s.fcyc := rfl
@[simp] theorem State.emit_phase (o : Output) : (s.emit o).phase = s.phase := rfl
@[simp] theorem State.emit_pix (o : Output) : (s.emit o).pix = s.pix := rfl
@[simp] theorem State.emit_brgb (o : Output) : (s.emit o).brgb = s.brgb := rfl
@[simp] theorem State.emit_params (o : Output) : (s.emit o).params = s.params := rfl
@[simp] theorem State.emit_events (o : Output) : (s.emit o).events = s.events := rfl
@[simp] theorem State.emit_reports (o : Output) : (s.emit o).reports = s.reports := rfl
@[simp] theorem State.emit_elapsed (o : Output) : (s.emit o).elapsed = s.elapsed := rfl
@[simp] theorem State.emit_script (o : Output) : (s.emit o).script = s.script := rfl
@[simp] theorem State.emit_outputs (o : Output) : (s.emit o).outputs = o :: s.outputs := rfl
@[simp] theorem State.emit_started (o : Output) : (s.emit o).started = s.started := rfl

@[simp] theorem State.setStarted_mem (b : Bool) : (s.setStarted b).mem = s.mem := rfl
@[simp] theorem State.setStarted_krow (b : Bool) : (s.setStarted b).krow = s.krow := rfl
@[simp] theorem State.setStarted_border (b : Bool) : (s.setStarted b).border = s.border := rfl
@[simp] theorem State.setStarted_flash (b : Bool) : (s.setStarted b).flash = s.flash := rfl
@[simp] theorem State.setStarted_flashcnt (b : Bool) : (s.setStarted b).flashcnt = s.flashcnt := rfl
@[simp] theorem State.setStarted_fcyc (b : Bool) : (s.setStarted b).fcyc = s.fcyc := rfl
@[simp] theorem State.setStarted_phase (b : Bool) : (s.setStarted b).phase = s.phase := rfl
@[simp] theorem State.setStarted_pix (b : Bool) : (s.setStarted b).pix = s.pix := rfl
@[simp] theorem State.setStarted_brgb (b : Bool) : (s.setStarted b).brgb = s.brgb := rfl
@[simp] theorem State.setStarted_params (b : Bool) : (s.setStarted b).params = s.params := rfl
@[simp] theorem State.setStarted_events (b : Bool) : (s.setStarted b).events = s.events := rfl
@[simp] theorem State.setStarted_reports (b : Bool) : (s.setStarted b).reports = s.reports := rfl
@[simp] theorem State.setStarted_elapsed (b : Bool) : (s.setStarted b).elapsed = s.elapsed := rfl
@[simp] theorem State.setStarted_script (b : Bool) : (s.setStarted b).script = s.script := rfl
@[simp] theorem State.setStarted_outputs (b : Bool) : (s.setStarted b).outputs = s.outputs := rfl
@[simp] theorem State.setStarted_started (b : Bool) : (s.setStarted b).started = b := rfl

end Sys2Proof.Machine
end

