-- ==== Sys2Proof/Laws/Memory.lean ====
section
/-! SUPPORT. The laws of memory: every operation keeps the canonical form, a read after a write, and the cell
a read answers. -/

namespace Sys2Proof.Machine

/-! ### Where the cells of an erased or extended memory come from -/

theorem mem_memErase {m : Memory} {a : Nat} {c : Host.Cell} :
    c ∈ memErase m a ↔ c ∈ m ∧ c.1 ≠ a := by
  induction m with
  | nil => simp [memErase]
  | cons d ds ih =>
    unfold memErase
    split
    next h => simp only [ih, List.mem_cons]; constructor
              · rintro ⟨hc, hne⟩; exact ⟨.inr hc, hne⟩
              · rintro ⟨rfl | hc, hne⟩
                · exact absurd h hne
                · exact ⟨hc, hne⟩
    next h => simp only [ih, List.mem_cons]; constructor
              · rintro (rfl | ⟨hc, hne⟩)
                · exact ⟨.inl rfl, h⟩
                · exact ⟨.inr hc, hne⟩
              · rintro ⟨rfl | hc, hne⟩
                · exact .inl rfl
                · exact .inr ⟨hc, hne⟩

theorem mem_memPut {m : Memory} {a : Nat} {v : Byte} {c : Host.Cell} (h : c ∈ memPut m a v) :
    c = (a, v) ∨ c ∈ m := by
  induction m with
  | nil => simpa [memPut] using h
  | cons d ds ih =>
    unfold memPut at h
    split at h
    · simpa using h
    · split at h
      · rcases List.mem_cons.1 h with rfl | hc
        · exact .inl rfl
        · exact .inr (List.mem_cons_of_mem _ hc)
      · rcases List.mem_cons.1 h with rfl | hc
        · exact .inr (List.mem_cons_self ..)
        · exact (ih hc).imp_right (List.mem_cons_of_mem _)

/-! ### The canonical form is kept -/

theorem memErase_pairwise {m : Memory} {a : Nat} (h : m.Pairwise fun c d => c.1 < d.1) :
    (memErase m a).Pairwise fun c d => c.1 < d.1 := by
  induction m with
  | nil => exact h
  | cons d ds ih =>
    obtain ⟨hd, hds⟩ := List.pairwise_cons.1 h
    unfold memErase
    split
    · exact ih hds
    · exact List.pairwise_cons.2 ⟨fun c hc => hd c (mem_memErase.1 hc).1, ih hds⟩

theorem memPut_pairwise {m : Memory} {a : Nat} {v : Byte} (h : m.Pairwise fun c d => c.1 < d.1) :
    (memPut m a v).Pairwise fun c d => c.1 < d.1 := by
  induction m with
  | nil => simp [memPut]
  | cons d ds ih =>
    obtain ⟨hd, hds⟩ := List.pairwise_cons.1 h
    unfold memPut
    split
    next hlt =>
      refine List.pairwise_cons.2 ⟨fun c hc => ?_, h⟩
      rcases List.mem_cons.1 hc with rfl | hc
      · exact hlt
      · exact Nat.lt_trans hlt (hd c hc)
    next hge =>
      split
      next heq => exact List.pairwise_cons.2 ⟨fun c hc => heq ▸ hd c hc, hds⟩
      next hne =>
        refine List.pairwise_cons.2 ⟨fun c hc => ?_, ih hds⟩
        rcases mem_memPut hc with rfl | hc
        · show d.1 < a; omega
        · exact hd c hc

/-- A write inside the address space keeps the canonical form. -/
theorem memWrite_wf {p : Params} {m : Memory} {a : Nat} {v : Byte} (h : Memory.wf p m)
    (ha : a < memSize) : Memory.wf p (memWrite p m a v) := by
  unfold memWrite
  split
  · exact ⟨memErase_pairwise h.1, fun c hc => h.2 c (mem_memErase.1 hc).1⟩
  next hv =>
    refine ⟨memPut_pairwise h.1, fun c hc => ?_⟩
    rcases mem_memPut hc with rfl | hc
    · exact ⟨ha, hv⟩
    · exact h.2 c hc

/-- A write adds no cell but the one at its own address. -/
theorem mem_memWrite {p : Params} {m : Memory} {a : Nat} {v : Byte} {c : Host.Cell}
    (h : c ∈ memWrite p m a v) : c.1 = a ∨ c ∈ m := by
  unfold memWrite at h
  split at h
  · exact .inr (mem_memErase.1 h).1
  · exact (mem_memPut h).imp_left (fun e => by rw [e])

theorem memWf_nil (p : Params) : Memory.wf p [] := by simp [Memory.wf]

/-! ### Which cell is found -/

theorem memFind_eq_none {m : Memory} {a : Nat} (h : ∀ c ∈ m, c.1 ≠ a) : memFind m a = none := by
  induction m with
  | nil => rfl
  | cons d ds ih =>
    rw [memFind, if_neg (h d (List.mem_cons_self ..))]
    exact ih fun c hc => h c (List.mem_cons_of_mem _ hc)

theorem memFind_eq_some {m : Memory} {a : Nat} {v : Byte} (hs : m.Pairwise fun c d => c.1 < d.1)
    (h : (a, v) ∈ m) : memFind m a = some v := by
  induction m with
  | nil => simp at h
  | cons d ds ih =>
    obtain ⟨hd, hds⟩ := List.pairwise_cons.1 hs
    rcases List.mem_cons.1 h with rfl | h
    · simp [memFind]
    · rw [memFind, if_neg (Nat.ne_of_lt (hd _ h))]
      exact ih hds h

theorem memFind_memErase (m : Memory) (a b : Nat) :
    memFind (memErase m a) b = if b = a then none else memFind m b := by
  induction m with
  | nil => simp [memErase, memFind]
  | cons d ds ih => unfold memErase; split <;> (simp only [memFind, ih]; grind)

theorem memFind_memPut {m : Memory} (a b : Nat) (v : Byte)
    (hs : m.Pairwise fun c d => c.1 < d.1) :
    memFind (memPut m a v) b = if b = a then some v else memFind m b := by
  induction m with
  | nil => simp only [memPut, memFind]; grind
  | cons d ds ih =>
    obtain ⟨-, hds⟩ := List.pairwise_cons.1 hs
    unfold memPut
    split
    · simp only [memFind]; grind
    · split <;> simp only [memFind, ih hds] <;> grind

theorem memFind_memPut_ne (m : Memory) {a b : Nat} (v : Byte) (h : b ≠ a) :
    memFind (memPut m a v) b = memFind m b := by
  induction m with
  | nil => simp only [memPut, memFind]; grind
  | cons d ds ih =>
    unfold memPut
    split
    · simp only [memFind]; grind
    · split
      · simp only [memFind]; grind
      · simp only [memFind, ih]

/-! ### Reading -/

/-- A write leaves what any other address reads as, whatever the form of the memory. -/
theorem memRead_memWrite_ne (p : Params) (m : Memory) {a b : Nat} (v : Byte) (h : b ≠ a) :
    memRead p (memWrite p m a v) b = memRead p m b := by
  unfold memRead memWrite
  split
  · rw [memFind_memErase, if_neg h]
  · rw [memFind_memPut_ne _ _ h]

/-- A read after a write: the value at the written address, what was there everywhere else. -/
theorem memRead_memWrite {p : Params} {m : Memory} (h : Memory.wf p m) (a b : Nat) (v : Byte) :
    memRead p (memWrite p m a v) b = if b = a then v else memRead p m b := by
  unfold memRead memWrite
  split
  next hv => rw [memFind_memErase]; split <;> simp_all
  next hv => rw [memFind_memPut a b v h.1]; split <;> simp

theorem memRead_of_mem {p : Params} {m : Memory} {a : Nat} {v : Byte} (h : Memory.wf p m)
    (hm : (a, v) ∈ m) : memRead p m a = v := by
  simp [memRead, memFind_eq_some h.1 hm]

theorem memRead_unlisted {p : Params} {m : Memory} {a : Nat} (h : ∀ c ∈ m, c.1 ≠ a) :
    memRead p m a = unlisted p a := by
  simp [memRead, memFind_eq_none h]

end Sys2Proof.Machine
end

