-- ==== Sys2Proof/Laws/Ops.lean ====
section
/-! SUPPORT. What each shared operation can do, said once. -/

namespace Sys2Proof.Machine

/-! ### Operands -/

/-- Bit `b` of a row after `KEY_SET` on `bit`. -/
theorem rowWithKey_bit (row : BitVec 5) (bit b : Fin 5) (pressed : Bool) :
    (rowWithKey row bit pressed).getLsbD b = if b = bit then !pressed else row.getLsbD b := by
  by_cases h : b = bit
  · subst h; cases pressed <;> simp [rowWithKey]
  · have h' : b.val ≠ bit.val := fun e => h (Fin.ext e)
    cases pressed <;> simp [rowWithKey, h, h']

theorem portSelected_iff (port : Word) : portSelected port = true ↔ port.getLsbD 0 = false := by
  simp [portSelected]

/-- Bit `b` of a row's byte: the row's bit below 5, a one above. -/
theorem rowByte_bit (row : BitVec 5) (b : Nat) (hb : b < 8) :
    (rowByte row).getLsbD b = (decide (5 ≤ b) || row.getLsbD b) := by
  have h : ∀ (row : BitVec 5) (b : Fin 8),
      (rowByte row).getLsbD b = (decide (5 ≤ b.val) || row.getLsbD b) := by decide
  exact h row ⟨b, hb⟩

/-- Row `i` is selected when `rowsel[8 + i]` is 0. -/
theorem rowMask_bit (rowsel : Word) (i : Fin 8) :
    (rowMask rowsel).getLsbD i = !rowsel.getLsbD (8 + i) := by
  simp [rowMask]

/-! ### Port -/

/-- A bit of the AND of the selected rows of a list. -/
theorem andRows_bit (krow : Vector (BitVec 5) 8) (mask : Byte) (is : List (Fin 8)) (r : Byte)
    (b : Nat) : (andRows krow mask is r).getLsbD b =
      (r.getLsbD b && is.all fun i => !mask.getLsbD i || (rowByte krow[i]).getLsbD b) := by
  induction is generalizing r with
  | nil => simp [andRows]
  | cons i is ih =>
    rw [andRows, ih, List.all_cons]
    cases h : mask.getLsbD i
    · simp only [Bool.false_eq_true, if_false, Bool.not_false, Bool.true_or, Bool.true_and]
    · simp only [if_true, Bool.not_true, Bool.false_or, BitVec.getLsbD_and, Bool.and_assoc]

/-- A bit of the result of a read of the even port. -/
theorem keysByte_bit (krow : Vector (BitVec 5) 8) (rowsel : Word) (b : Nat) (hb : b < 8) :
    (keysByte krow rowsel).getLsbD b =
      (decide (5 ≤ b) || [0, 1, 2, 3, 4, 5, 6, 7].all fun i : Fin 8 =>
        rowsel.getLsbD (8 + i) || (rowByte krow[i]).getLsbD b) := by
  have h1 : (0xFF : Byte).getLsbD b = true := by
    have : b = 0 ∨ b = 1 ∨ b = 2 ∨ b = 3 ∨ b = 4 ∨ b = 5 ∨ b = 6 ∨ b = 7 := by omega
    rcases this with rfl | rfl | rfl | rfl | rfl | rfl | rfl | rfl <;> rfl
  have h2 : (0xE0 : Byte).getLsbD b = decide (5 ≤ b) := by
    have : b = 0 ∨ b = 1 ∨ b = 2 ∨ b = 3 ∨ b = 4 ∨ b = 5 ∨ b = 6 ∨ b = 7 := by omega
    rcases this with rfl | rfl | rfl | rfl | rfl | rfl | rfl | rfl <;> rfl
  rw [keysByte, BitVec.getLsbD_or, andRows_bit, h1, h2, Bool.or_comm, Bool.true_and]
  simp only [rowMask_bit, Bool.not_not]

/-! ### Memory and registers -/

/-- A write changes memory only. -/
theorem State.write_frame (s : State) (addr : Word) (data : Byte) :
    ∃ mem, s.write addr data = { s with mem := mem } ∧
      (Memory.wf s.params s.mem → Memory.wf s.params mem) ∧
      (∀ c ∈ mem, s.params.romSize ≤ c.1 ∨ c ∈ s.mem) ∧
      (∀ a, a < s.params.romSize → memRead s.params mem a = memRead s.params s.mem a) := by
  unfold State.write
  split
  next h =>
    refine ⟨_, rfl, fun hw => memWrite_wf hw addr.isLt, fun c hc => ?_,
      fun a ha => memRead_memWrite_ne _ _ _ (by omega)⟩
    rcases mem_memWrite hc with e | hc
    · exact .inl (e ▸ h)
    · exact .inr hc
  next => exact ⟨s.mem, rfl, id, fun c hc => .inr hc, fun _ _ => rfl⟩

/-- `KEY_SET` writes one bit of `KROW` (R110). -/
theorem State.keySet_krow_bit (s : State) (row r : Fin 8) (bit b : Fin 5) (pressed : Bool) :
    (s.keySet row bit pressed).krow[r].getLsbD b =
      if r = row ∧ b = bit then !pressed else s.krow[r].getLsbD b := by
  by_cases hr : r = row
  · subst hr
    have h : (s.keySet r bit pressed).krow[r] = rowWithKey s.krow[r] bit pressed := by
      simp [State.keySet]
    rw [h, rowWithKey_bit]
    simp only [true_and]
  · have : row.val ≠ r.val := fun e => hr (Fin.ext e.symm)
    simp [State.keySet, hr, this]

/-- Two `KROW`s with the same bits are the same. -/
theorem krow_ext {k l : Vector (BitVec 5) 8}
    (h : ∀ (r : Fin 8) (b : Fin 5), k[r].getLsbD b = l[r].getLsbD b) : k = l := by
  refine Vector.ext fun r hr => BitVec.eq_of_getLsbD_eq fun b hb => ?_
  exact h ⟨r, hr⟩ ⟨b, hb⟩

/-- The last `KEY_SET` on a coordinate decides (R113). -/
theorem State.keySet_keySet (s : State) (row : Fin 8) (bit : Fin 5) (p q : Bool) :
    (s.keySet row bit p).keySet row bit q = s.keySet row bit q := by
  have h : ((s.keySet row bit p).keySet row bit q).krow = (s.keySet row bit q).krow :=
    krow_ext fun r b => by simp only [State.keySet_krow_bit]; grind
  simp only [State.keySet, State.setKrow] at h ⊢
  rw [h]

/-- A host key event changes `KROW` only. -/
theorem State.hostKey_frame (s : State) (id : HostKey) (pressed : Bool) :
    ∃ krow, s.hostKey id pressed = { s with krow := krow } := by
  unfold State.hostKey
  split
  · exact ⟨_, rfl⟩
  · exact ⟨s.krow, rfl⟩

/-! ### Video decoder -/

/-- An element of the decoded picture. -/
theorem State.picture_get (s : State) (x : Fin 256) (y : Fin 192) : s.picture[y][x] = s.pixel x y := by
  simp [State.picture]

/-- Pictures with the same pixels are the same. -/
theorem State.picture_congr {s t : State} (h : ∀ x y, s.pixel x y = t.pixel x y) :
    s.picture = t.picture := by
  simp only [State.picture, h]

/-- A palette look-up answers an entry of the palette. -/
theorem paletteColour_eq (p : Params) (idx : BitVec 4) :
    ∃ i : Fin 16, i.val = idx.toNat ∧ paletteColour p idx = p.palette[i] :=
  ⟨⟨idx.toNat, idx.isLt⟩, rfl, rfl⟩

theorem State.videoDecode_eq (s : State) :
    s.videoDecode = { s with pix := some s.picture, brgb := some s.borderColour } := rfl

/-! ### Sequencer -/

/-- A transaction changes `MEM`, `BORDER` and the history only; what it adds to the history is a result. -/
theorem State.perform_frame (s : State) (t : Txn) : ∃ mem border results,
    s.perform t = { s with mem := mem, border := border, outputs := results ++ s.outputs } ∧
      (∀ o ∈ results, ∃ v, o = .result v) ∧
      (Memory.wf s.params s.mem → Memory.wf s.params mem) ∧
      (∀ c ∈ mem, s.params.romSize ≤ c.1 ∨ c ∈ s.mem) ∧
      (∀ a, a < s.params.romSize → memRead s.params mem a = memRead s.params s.mem a) := by
  cases t with
  | memRd addr => exact ⟨s.mem, s.border, [.result _], rfl, by simp, id, fun c hc => .inr hc, fun _ _ => rfl⟩
  | memWr addr data =>
    obtain ⟨mem, h, hw, hr, hk⟩ := s.write_frame addr data
    exact ⟨mem, s.border, [], h, by simp, hw, hr, hk⟩
  | ioRd port rowsel =>
    exact ⟨s.mem, s.border, [.result _], rfl, by simp, id, fun c hc => .inr hc, fun _ _ => rfl⟩
  | ioWr port data =>
    simp only [State.perform, State.portWrite]
    split
    · exact ⟨s.mem, _, [], rfl, by simp, id, fun c hc => .inr hc, fun _ _ => rfl⟩
    · exact ⟨s.mem, s.border, [], rfl, by simp, id, fun c hc => .inr hc, fun _ _ => rfl⟩

/-- Any number of transactions change `MEM`, `BORDER` and the history only. -/
theorem State.performAll_frame (s : State) (ts : List Txn) : ∃ mem border results,
    s.performAll ts = { s with mem := mem, border := border, outputs := results ++ s.outputs } ∧
      (∀ o ∈ results, ∃ v, o = .result v) ∧
      (Memory.wf s.params s.mem → Memory.wf s.params mem) ∧
      (∀ c ∈ mem, s.params.romSize ≤ c.1 ∨ c ∈ s.mem) ∧
      (∀ a, a < s.params.romSize → memRead s.params mem a = memRead s.params s.mem a) := by
  induction ts generalizing s with
  | nil => exact ⟨s.mem, s.border, [], rfl, by simp, id, fun c hc => .inr hc, fun _ _ => rfl⟩
  | cons t ts ih =>
    obtain ⟨m1, b1, r1, h1, o1, w1, k1, e1⟩ := s.perform_frame t
    obtain ⟨m2, b2, r2, h2, o2, w2, k2, e2⟩ := ih (s.perform t)
    rw [h1] at h2 w2 k2 e2
    refine ⟨m2, b2, r2 ++ r1, ?_, ?_, fun h => w2 (w1 h), fun c hc => ?_,
      fun a ha => (e2 a ha).trans (e1 a ha)⟩
    · rw [State.performAll, h1, h2]; simp
    · intro o ho
      rcases List.mem_append.1 ho with ho | ho
      · exact o2 o ho
      · exact o1 o ho
    · rcases k2 c hc with h | h
      · exact .inl h
      · exact k1 c h

/-- POLL changes `KROW`, `FCYC` and `PHASE` only; without a quit it ends in Executing with `FCYC = 0`, with
one in Terminated with `FCYC` as it was (R191, R192). -/
theorem State.pollEvents_frame (s : State) (es : List Event) : ∃ krow,
    s.pollEvents es = if Event.quit ∈ es then { s with krow := krow, phase := .terminated }
      else { s with krow := krow, fcyc := 0, phase := .executing } := by
  induction es generalizing s with
  | nil => exact ⟨s.krow, rfl⟩
  | cons e es ih =>
    cases e with
    | quit => exact ⟨s.krow, by simp [State.pollEvents, State.setPhase]⟩
    | key id pressed =>
      obtain ⟨k1, h1⟩ := s.hostKey_frame id pressed
      obtain ⟨k2, h2⟩ := ih (s.hostKey id pressed)
      refine ⟨k2, ?_⟩
      rw [State.pollEvents, h2, h1]
      simp

/-- What THROTTLE emits is at most one sleep. -/
theorem State.sleepRest_frame (s : State) : ∃ os,
    s.sleepRest = { s with outputs := os ++ s.outputs } ∧ (os = [] ∨ ∃ n, os = [.sleep n]) := by
  unfold State.sleepRest
  split
  · exact ⟨[.sleep _], rfl, .inr ⟨_, rfl⟩⟩
  · exact ⟨[], rfl, .inl rfl⟩

end Sys2Proof.Machine
end

