-- ==== Sys2Proof/Laws/Step.lean ====
section
/-! SUPPORT. What a step can do, said once. -/

namespace Sys2Proof.Machine

/-- A step that answers a next state performed RESET at power-on, a script line, or the operation of its
phase. -/
theorem step_next_cases {s t : State} (h : step s = .next t) :
    (s.started = false ∧ s.params.Wf ∧ ∃ rest, t = (s.setScript rest).resetBlock) ∨
    (s.started = true ∧ ∃ r rest i, s.phase ≠ .terminated ∧ s.script = r :: rest ∧
      decode s.params.romSize r = .ok i ∧ exec i (s.setScript rest) = .next t) ∨
    (s.started = true ∧ s.script = [] ∧ ∃ i u, sequencerFetch s = .ok (i, u) ∧ exec i u = .next t) := by
  unfold step fetch at h
  cases hst : s.started
  · have hr : ∀ u : State, u.started = false → u.params = s.params → execReset u = .next t →
        s.params.Wf ∧ t = u.resetBlock := by
      intro u h1 h2 h3
      unfold execReset at h3
      rw [h1, h2] at h3
      by_cases hw : s.params.Wf
      · rw [if_neg (by decide), if_pos hw] at h3
        exact ⟨hw, (Host.Outcome.next.inj h3).symm⟩
      · rw [if_neg (by decide), if_neg hw] at h3
        cases h3
    simp only [hst, if_true, powerOnFetch] at h
    rcases hs : s.script with _ | ⟨r, rest⟩ <;> simp only [hs] at h
    · obtain ⟨hw, ht⟩ := hr s hst rfl h
      exact .inl ⟨rfl, hw, [], by rw [ht, ← hs]; rfl⟩
    · split at h
      next i u heq =>
        split at heq <;> cases heq
        obtain ⟨hw, ht⟩ := hr (s.setScript rest) hst rfl h
        exact .inl ⟨rfl, hw, rest, ht⟩
      all_goals cases h
  · by_cases hp : s.phase = .terminated
    · simp [hst, hp] at h
    · rw [hst, if_neg (by decide), if_neg hp] at h
      rcases hs : s.script with _ | ⟨r, rest⟩ <;> simp only [hs] at h
      · refine .inr (.inr ⟨rfl, rfl, ?_⟩)
        rcases hf : sequencerFetch s with (f | f) | ⟨i, u⟩ <;> simp only [hf] at h
        · simp at h
        · simp at h
        · exact ⟨i, u, rfl, h⟩
      · rcases hd : decode s.params.romSize r with e | i <;> simp only [hd] at h
        · simp at h
        · exact .inr (.inl ⟨rfl, r, rest, i, hp, rfl, hd, h⟩)

/-- At the system level: the operation of the phase, what it needs, and the state it leaves. -/
theorem system_step_cases {s t : State} (hs : s.SystemLevel) (h : step s = .next t) :
    (s.phase = .polling ∧ t = (s.setEvents []).pollEvents s.events) ∨
    (s.phase = .executing ∧ s.fcyc < cyclesPerFrame s.params ∧ ∃ q qs, s.reports = q :: qs ∧
      t = ((s.setReports qs).performAll q.txns).setFcyc (s.fcyc + q.cycles)) ∨
    (s.phase = .executing ∧ cyclesPerFrame s.params ≤ s.fcyc ∧
      t = s.requestInterrupt.setPhase .decoding) ∨
    (s.phase = .decoding ∧ t = s.videoDecode.flashAdvance.setPhase .presenting) ∨
    (s.phase = .presenting ∧ ∃ pix c, s.pix = some pix ∧ s.brgb = some c ∧
      t = (s.emit (.present pix c)).setPhase .throttling) ∨
    (s.phase = .throttling ∧ t = s.sleepRest.setPhase .polling) := by
  rcases step_next_cases h with ⟨hn, -⟩ | ⟨-, r, rest, i, -, hr, -⟩ | ⟨-, -, i, u, hf, he⟩
  · rw [hs.1] at hn; cases hn
  · rw [hs.2] at hr; cases hr
  · unfold sequencerFetch at hf
    rcases hp : s.phase <;> simp only [hp] at hf
    · cases hf
      simp [exec, execPoll, hp] at he
      exact .inl ⟨rfl, he.symm⟩
    · by_cases hc : s.fcyc < cyclesPerFrame s.params
      · rw [if_pos hc] at hf
        rcases hq : s.reports with _ | ⟨q, qs⟩ <;> simp only [hq] at hf
        · cases hf
        · cases hf
          simp [exec, execCpuStep, hp, hc] at he
          exact .inr (.inl ⟨rfl, hc, q, qs, rfl, he.symm⟩)
      · rw [if_neg hc] at hf
        cases hf
        simp [exec, execFrameIrq, hp, Nat.le_of_not_lt hc] at he
        exact .inr (.inr (.inl ⟨rfl, Nat.le_of_not_lt hc, he.symm⟩))
    · cases hf
      simp [exec, execDecode, hp] at he
      exact .inr (.inr (.inr (.inl ⟨rfl, he.symm⟩)))
    · cases hf
      simp only [exec, execPresent, hp, if_true] at he
      rcases hx : s.pix with _ | pix <;> rcases hy : s.brgb with _ | c <;> simp [hx, hy] at he
      exact .inr (.inr (.inr (.inr (.inl ⟨rfl, pix, c, rfl, rfl, he.symm⟩))))
    · cases hf
      simp [exec, execThrottle, hp] at he
      exact .inr (.inr (.inr (.inr (.inr ⟨rfl, he.symm⟩))))
    · cases hf

/-- A history of results holds no request and no picture. -/
theorem counts_of_results {os ps : List Output} (h : ∀ o ∈ os, ∃ v, o = .result v) :
    irqCount (os ++ ps) = irqCount ps ∧ presentCount (os ++ ps) = presentCount ps := by
  induction os with
  | nil => simp
  | cons o os ih =>
    obtain ⟨v, rfl⟩ := h o (List.mem_cons_self ..)
    exact ih fun o ho => h o (List.mem_cons_of_mem _ ho)

end Sys2Proof.Machine
end

