-- ==== Sys2Proof/Tests/Slice0.lean ====
section
/-! SUPPORT. Tests. Expected values are those of spec/95_test_vectors.md (V, T and P numbers), of the examples
in the rules (R numbers), or worked out by hand from them. -/

namespace Sys2Proof.Machine.Tests

/-! ### Helpers -/

/-- Palette entry `i` is the colour `i`; entries 0 and 8 are equal (R8). -/
def pal : Vector Colour 16 := #v[0, 1, 2, 3, 4, 5, 6, 7, 0, 9, 10, 11, 12, 13, 14, 15]

/-- Small parameters: `ROM_SIZE = 2`, `ROM_IMAGE = F3 3C`, `CYCLES_PER_FRAME = 10`, and the `KEYMAP` of
spec/95_test_vectors.md part 3: `kA = 1`, `kS1 = 2`, `kS2 = 3`. -/
def par : Params where
  romSize     := 2
  romImage    := [0xF3, 0x3C]
  palette     := pal
  pixelFormat := ⟨0xFF0000, 0xFF00, 0xFF⟩
  cpuClockHz  := 500
  frameRateHz := 50
  intVector   := 0xFF
  keymap      := [(1, 1, 0), (2, 7, 1), (3, 7, 1)]

/-- The state after reset, with these parameters. -/
def st : State := State.powerOn par

/-- The same in a phase, with a cycle count. -/
def stIn (p : Phase) (fcyc : Nat) : State := (st.setPhase p).setFcyc fcyc

/-- The keyboard of V21 to V28. -/
def keys : State :=
  st.setKrow #v[0b11110, 0b11101, 0b11111, 0b11111, 0b11111, 0b11111, 0b11111, 0b01111]

/-- What `f` says of the state after an operation, if it answers one. -/
def after {α : Type} (i : Instr) (s : State) (f : State → α) : Option α :=
  match exec i s with
  | .next t => some (f t)
  | _ => none

/-- What `f` says of the state after a step, if it answers one. -/
def stepped {α : Type} (s : State) (f : State → α) : Option α :=
  match step s with
  | .next t => some (f t)
  | _ => none

/-! ### WellFormed: an ill-formed term for each check -/

theorem test_wf_border_odd_port : (Instr.ioWrBorder 0x00FF 0x0E).wf 0x4000 = false := by decide
theorem test_wf_nop_even_port : (Instr.ioWrNop 0x00FE 0x0E).wf 0x4000 = false := by decide
theorem test_wf_keys_odd_port : (Instr.ioRdKeys 0xFFFF 0).wf 0x4000 = false := by decide
theorem test_wf_float_even_port : (Instr.ioRdFloat 0x0000 0).wf 0x4000 = false := by decide
theorem test_wf_ram_below : (Instr.memWrRam 0x3FFF 0xAA).wf 0x4000 = false := by decide
theorem test_wf_rom_above : (Instr.memWrRom 0x4000 0xAA).wf 0x4000 = false := by decide

/-! ### Decoding: records written from the table of R80, one for each constructor -/

theorem test_decode_keySet : decode 0x4000 ⟨.key, [], [7, 4, 0]⟩ = .ok (.keySet 7 4 false) := by
  decide
theorem test_decode_rowState : decode 0x4000 ⟨.row, [], [7]⟩ = .ok (.rowState 7) := by decide
theorem test_decode_hostKey : decode 0x4000 ⟨.hkey, [], [5, 1]⟩ = .ok (.hostKey 5 true) := by decide
theorem test_decode_border :
    decode 0x4000 ⟨.iow, [], [0x1234, 0x0E]⟩ = .ok (.ioWrBorder 0x1234 0x0E) := by decide
theorem test_decode_nop :
    decode 0x4000 ⟨.iow, [], [0xFFFF, 0x0E]⟩ = .ok (.ioWrNop 0xFFFF 0x0E) := by decide
theorem test_decode_keys :
    decode 0x4000 ⟨.ior, [], [0x7FFE, 0x7F00]⟩ = .ok (.ioRdKeys 0x7FFE 0x7F00) := by decide
theorem test_decode_float :
    decode 0x4000 ⟨.ior, [], [0x00FF, 0x0000]⟩ = .ok (.ioRdFloat 0x00FF 0x0000) := by decide
theorem test_decode_memRd : decode 0x4000 ⟨.mr, [], [0xFFFF]⟩ = .ok (.memRd 0xFFFF) := by decide
theorem test_decode_ram_boundary :
    decode 0x4000 ⟨.mw, [], [0x4000, 0xAA]⟩ = .ok (.memWrRam 0x4000 0xAA) := by decide
theorem test_decode_rom_boundary :
    decode 0x4000 ⟨.mw, [], [0x3FFF, 0xAA]⟩ = .ok (.memWrRom 0x3FFF 0xAA) := by decide
theorem test_decode_pixel : decode 0x4000 ⟨.pxy, [], [255, 191]⟩ = .ok (.pixel 255 191) := by decide
theorem test_decode_poll : decode 0x4000 ⟨.poll, [⟨.hkey, [1, 1]⟩, ⟨.ev, []⟩, ⟨.hkey, [1, 0]⟩], []⟩ =
    .ok (.poll [.key 1 true, .quit, .key 1 false]) := by decide
theorem test_decode_quit : decode 0x4000 ⟨.ev, [], []⟩ = .ok .quit := by decide
/-- The record of P1 line 5, with a port read and a port write beside. -/
theorem test_decode_cpuStep : decode 0x4000
    ⟨.step, [⟨.mw, [0, 0xAA]⟩, ⟨.mr, [0]⟩, ⟨.ior, [0xFDFE, 0xFDFE]⟩, ⟨.iow, [0xFE, 0x0E]⟩], [4]⟩ =
    .ok (.cpuStep [.memWr 0 0xAA, .memRd 0, .ioRd 0xFDFE 0xFDFE, .ioWr 0xFE 0x0E] 4) := by decide
theorem test_decode_seq0 : [SeqOp.videoDecode, .frameIrq, .decode, .flashAdvance, .present, .throttle,
    .reset].map (fun op => decode 0x4000 ⟨.seq0 op, [], []⟩) =
    [.ok .videoDecode, .ok .frameIrq, .ok .decode, .ok .flashAdvance, .ok .present, .ok .throttle,
      .ok .reset] := by decide

/-- V11. -/
theorem test_decode_row_8 : decode 0x4000 ⟨.key, [], [8, 0, 1]⟩ = .error (.outOfRange .row) := by
  decide
theorem test_decode_bit_5 : decode 0x4000 ⟨.key, [], [0, 5, 1]⟩ = .error (.outOfRange .bit) := by
  decide
theorem test_decode_y_192 : decode 0x4000 ⟨.pxy, [], [0, 192]⟩ = .error (.outOfRange .y) := by decide
theorem test_decode_wide_addr : decode 0x4000 ⟨.mr, [], [0x10000]⟩ = .error (.outOfRange .addr) := by
  decide
theorem test_decode_nested_poll :
    decode 0x4000 ⟨.poll, [⟨.mr, [0]⟩], []⟩ = .error (.wrongItem .mr) := by decide
/-- `MEM_WR` with `ROM_SIZE = 0` is never dropped (V31f). -/
theorem test_decode_no_rom : decode 0 ⟨.mw, [], [0, 0xAA]⟩ = .ok (.memWrRam 0 0xAA) := by decide

/-- R99: `KEY_DOWN`, `KEY_UP` and `FRAME`. -/
theorem test_decode_pseudo : decode 0x4000 (keyDownRecord 3 2) = .ok (.keySet 3 2 true) ∧
    decode 0x4000 (keyUpRecord 3 2) = .ok (.keySet 3 2 false) ∧
    (frameRecords [] [([.memRd 0], 4), ([], 8)]).map (decode 0x4000) =
      [.ok (.poll []), .ok (.cpuStep [.memRd 0] 4), .ok (.cpuStep [] 8), .ok .frameIrq, .ok .decode,
        .ok .present, .ok .throttle] := by decide

/-- The rows of spec/opcode_table.json that fix bit 0 of the port: 0 and 1. -/
theorem test_table_word_even : decodeTableWord 16 0x0000 = some (.ioWrBorder 0 0) := by decide
theorem test_table_word_odd : decodeTableWord 16 0x0001 = some (.ioWrNop 1 0) := by decide

theorem test_step_table_word : ∃ t : State, step (State.reset.withFetchWord 16 0x0001) = .next t ∧
    exec (.ioWrNop 1 0) State.reset = .next t := ⟨State.reset, rfl, rfl⟩

/-! ### Keyboard matrix -/

/-- V4. -/
theorem test_keySet_press :
    after (.keySet 7 4 true) st (fun t => (t.krow[7], t.krow[6])) = some (0b01111, 0b11111) := by decide
/-- V3. -/
theorem test_keySet_release : after (.keySet 3 2 false) (st.keySet 3 2 true) (fun t => t.krow[3]) =
    some 0b11111 := by decide
/-- V6. -/
theorem test_rowState : after (.rowState 3) (st.keySet 3 2 true) (fun t => t.outputs) =
    some [.result 0xFB] := by decide
/-- V7. -/
theorem test_rowState_all_pressed :
    after (.rowState 5) (st.setKrow (Vector.replicate 8 0)) (fun t => t.outputs) =
    some [.result 0xE0] := by decide
/-- V9. -/
theorem test_hostKey_unmapped : after (.hostKey 9 true) st (fun t => t.krow) = some st.krow := by
  decide
/-- V10. -/
theorem test_hostKey_aliased :
    after (.hostKey 2 false) ((st.hostKey 2 true).hostKey 3 true) (fun t => t.krow[7]) =
    some 0b11111 := by decide

/-! ### Port -/

/-- V12 to V19. -/
theorem test_border : [0x00, 0x01, 0x02, 0x04, 0x08, 0x07, 0xF1, 0xFF].map
    (fun d => after (.ioWrBorder 0x00FE d) st (fun t => t.border)) =
    [some 0, some 0, some 1, some 2, some 4, some 3, some 0, some 7] := by decide
/-- V19a. -/
theorem test_border_any_even_port :
    after (.ioWrBorder 0x1234 0x0E) st (fun t => t.border) = some 7 := by decide
/-- V19b. -/
theorem test_nop : after (.ioWrNop 0x00FF 0x0E) (st.setBorder 5) (fun t => t.border) = some 5 := by
  decide
/-- V21 to V28. -/
theorem test_keys : [0xFE00, 0xFD00, 0xFC00, 0x7F00, 0x7EFE, 0x0000, 0xFF00, 0xFB00].map
    (fun r => after (.ioRdKeys 0x00FE r) keys (fun t => t.outputs)) =
    [0xFE, 0xFD, 0xFC, 0xEF, 0xEE, 0xEC, 0xFF, 0xFF].map fun v => some [Output.result v] := by decide
/-- V30. -/
theorem test_keys_lowest :
    after (.ioRdKeys 0x00FE 0) (st.setKrow (Vector.replicate 8 0)) (fun t => t.outputs) =
    some [.result 0xE0] := by decide
/-- V29. -/
theorem test_float : after (.ioRdFloat 0x00FF 0) keys (fun t => t.outputs) = some [.result 0xFF] := by
  decide

/-! ### Address space (V31, with `ROM_SIZE = 2`) -/

/-- V31a, V31b. -/
theorem test_memWrRom : after (.memWrRom 0 0xAA) st (fun t => (t.read 0, t.read 1)) =
    some (0xF3, 0x3C) := by decide
/-- V31c. -/
theorem test_memWrRam_first : after (.memWrRam 2 0xAA) st (fun t => (t.read 2, t.read 1, t.read 3)) =
    some (0xAA, 0x3C, 0x00) := by decide
/-- V31d. -/
theorem test_memWrRam_last : after (.memWrRam 0xFFFF 0x55) st (fun t => (t.read 0xFFFF, t.read 0)) =
    some (0x55, 0xF3) := by decide
/-- V31e. -/
theorem test_memRd_zero : after (.memRd 0x8000) st (fun t => t.outputs) = some [.result 0x00] := by
  decide
theorem test_memRd_rom : after (.memRd 0x0001) st (fun t => t.outputs) = some [.result 0x3C] := by
  decide

/-! ### Video decoder -/

/-- V32: the addresses of `(0, 63)`, `(255, 191)`, `(100, 100)`, `(13, 45)`. -/
theorem test_bitmapAddr : [bitmapAddr 0 63, bitmapAddr 255 191, bitmapAddr 100 100, bitmapAddr 13 45] =
    [0x47E0, 0x57FF, 0x4C8C, 0x45A1] := by decide
theorem test_attrAddr : [attrAddr 0 63, attrAddr 255 191, attrAddr 100 100, attrAddr 13 45] =
    [0x58E0, 0x5AFF, 0x598C, 0x58A1] := by decide
/-- V33: columns (0,0), (0,1), (1,0), (1,1) of `0xB9`, `0xC7` and `0x46`. -/
theorem test_colourIndex : [0xB9, 0xC7, 0x46].map (fun a =>
    [colourIndex a false false, colourIndex a true false, colourIndex a false true,
      colourIndex a true true]) = [[7, 1, 1, 7], [8, 15, 15, 8], [8, 8, 14, 14]] := by decide
/-- P2: bit 3 of `0x4C8C` is pixel (100, 100), whose cell has the attribute `0xB9`. -/
def drawn : State := (st.write 0x4C8C 0x08).write 0x598C 0xB9
theorem test_pixel_ink : after (.pixel 100 100) drawn (fun t => t.outputs) = some [.colour 1] := by
  decide
theorem test_pixel_paper_beside :
    after (.pixel 101 100) drawn (fun t => t.outputs) = some [.colour 7] := by decide
/-- V39: `0x4100` is pixel row 1. -/
def rowOne : State := (st.write 0x4100 0xFF).write 0x5800 0x07
theorem test_videoDecode : after .videoDecode rowOne (fun t =>
    t.pix.map fun p => (p[(1 : Fin 192)][(7 : Fin 256)], p[(0 : Fin 192)][(7 : Fin 256)])) =
    some (some (7, 0)) := by
  simp only [after, exec, execVideoDecode, State.videoDecode_eq, State.picture_get, Option.map]
  decide
/-- V35. -/
theorem test_videoDecode_border :
    after .videoDecode (st.setBorder 5) (fun t => t.brgb) = some (some 5) := by decide

/-! ### Frame sequencer -/

/-- P4 line 5, from reset: the event after the quit is discarded. -/
theorem test_poll_quit : after (.poll [.key 1 true, .key 9 true, .quit, .key 1 false])
    (stIn .polling 10) (fun t => (t.krow[1], t.phase, t.fcyc)) =
    some (0b11110, .terminated, 10) := by decide
/-- V40. -/
theorem test_poll_empty : after (.poll []) (stIn .polling 32) (fun t => (t.phase, t.fcyc)) =
    some (.executing, 0) := by decide
/-- R192: a quit signal waits for the next POLL. -/
theorem test_quit_waits : after .quit (stIn .decoding 10) (fun t => (t.phase, t.events)) =
    some (.decoding, [.quit]) := by decide
/-- V50. -/
theorem test_quit_polling : after .quit (stIn .polling 0) (fun t => (t.phase, t.outputs)) =
    some (.terminated, []) := by decide
/-- P1 line 5: a dropped write, then the read; V43: the count passes the budget. -/
theorem test_cpuStep : after (.cpuStep [.memWr 0 0xAA, .memRd 0] 23) (stIn .executing 9)
    (fun t => (t.outputs, t.fcyc, t.phase)) = some ([.result 0xF3], 32, .executing) := by decide
/-- V51. -/
theorem test_cpuStep_not_decoding : after (.cpuStep [] 1) (stIn .decoding 0) (fun t => t.fcyc) = none := by
  decide
/-- V42, V44. -/
theorem test_frameIrq : after .frameIrq (stIn .executing 10) (fun t => (t.outputs, t.phase, t.fcyc)) =
    some ([.irq 0xFF], .decoding, 10) := by decide
theorem test_frameIrq_early : after .frameIrq (stIn .executing 9) (fun t => t.phase) = none := by decide
/-- R196: from reset, the first DECODE renders with `FLASH = 0` and leaves `FLASHCNT = 1`. -/
theorem test_decode : after .decode (stIn .decoding 10) (fun t => (t.flash, t.flashcnt, t.phase)) =
    some (false, 1, .presenting) := by decide
/-- The toggle of the 16th decode shows in the next picture (D13): row "15" of P3. -/
theorem test_decode_before_toggle :
    after .decode (((((stIn .decoding 10).setFlash false 15).write 0x4000 0xF0).write 0x5800 0x87))
      (fun t => (t.flash, t.pix.map fun p => p[(0 : Fin 192)][(0 : Fin 256)])) =
    some (true, some 7) := by
  simp only [after, exec, execDecode, State.videoDecode_eq]
  rw [if_pos (by decide)]
  simp only [State.setPhase, State.flashAdvance, State.setFlash, State.picture_get, Option.map]
  decide
/-- V46 to V48. -/
theorem test_flashAdvance : [(false, (14 : BitVec 4)), (false, 15), (true, 15)].map
    (fun f => after .flashAdvance (st.setFlash f.1 f.2) (fun t => (t.flash, t.flashcnt))) =
    [some (false, 15), some (true, 0), some (false, 0)] := by decide

/-- A picture of one colour. -/
def plain : Picture := Vector.replicate 192 (Vector.replicate 256 0)
theorem test_present : exec .present ((stIn .presenting 10).setPicture plain 7) =
    .next { ((stIn .presenting 10).setPicture plain 7) with
            outputs := [.present plain 7], phase := .throttling } := rfl
/-- V57. -/
theorem test_present_no_picture : exec .present (stIn .presenting 10) = .fault .noPicture := rfl
/-- R199: 5 ms used of the 20 ms of a 50 Hz frame: 15 ms are slept (here times 50). -/
theorem test_throttle : after .throttle { stIn .throttling 10 with elapsed := 5000000 }
    (fun t => (t.outputs, t.phase)) = some ([.sleep (50 * 15000000)], .polling) := by decide
/-- R199: 25 ms used: no sleep. -/
theorem test_throttle_overrun : after .throttle { stIn .throttling 10 with elapsed := 25000000 }
    (fun t => (t.outputs, t.phase)) = some ([], .polling) := by decide

/-! ### Reset (V52 to V58) -/

def used : State := ((keys.write 0x8000 1).setBorder 3).setFlash true 7
/-- Such a block at power-on. -/
def off : State := used.setStarted false
theorem test_reset_memory : after .reset off (fun t => (t.read 0, t.read 0x8000, t.border)) =
    some (0xF3, 0, 0) := by decide
theorem test_reset_sequencer : after .reset off (fun t => (t.flash, t.flashcnt, t.fcyc, t.phase)) =
    some (false, 0, 0, .polling) := by decide
theorem test_reset_no_picture : after .reset (off.setPicture plain 7) (fun t => t.pix.isSome) =
    some false := by decide
theorem test_reset_keyboard :
    after (.ioRdKeys 0x00FE 0) used.resetBlock (fun t => t.outputs) = some [.result 0xFF] := by decide

/-- R260: no operation resets a running block. -/
theorem test_reset_running : exec .reset used = .refused .alreadyReset := rfl
/-- R262: a `ROM_IMAGE` of 2 bytes with `ROM_SIZE = 3`. -/
theorem test_reset_short_rom :
    exec .reset { off with params := { par with romSize := 3 } } = .refused .parametersInvalid := by
  simp [exec, execReset, off, par, Params.Wf, State.setStarted]

/-! ### Steps -/

/-- P1 line 1: the first step at power-on is the RESET of the script, and no other line runs there. -/
theorem test_step_power_on :
    stepped (off.setScript [⟨.seq0 .reset, [], []⟩]) (fun t => (t.border, t.started, t.script)) =
    some (0, true, []) := by decide
theorem test_step_not_reset : step (off.setScript [⟨.mr, [], [0]⟩]) = .refused .notReset := rfl
/-- A placed RESET runs, although the block has been reset. -/
theorem test_place_reset :
    stepped (placeRecord used (encode .reset)) (fun t => (t.border, t.started)) = some (0, true) := by
  decide

/-- From reset with no script, the first step is a POLL (R190). -/
theorem test_step_from_reset : stepped State.reset (fun t => t.phase) = some .executing := rfl
/-- A script line first (P1 line 2). -/
theorem test_step_script :
    stepped (st.setScript [⟨.poll, [⟨.hkey, [1, 1]⟩], []⟩]) (fun t => (t.krow[1], t.phase, t.script)) =
    some (0b11110, .executing, []) := by decide

/-! ### Witnesses: states and operands that meet the hypotheses of the obligations, at the ends of their
ranges, one for each clause -/

theorem witness_HostKeyFollowsKeymap : keyCoordinate st.params.keymap 1 = some (1, 0) ∧
    keyCoordinate st.params.keymap 9 = none := by decide

theorem witness_LastEventOnACoordinateWins : keyCoordinate st.params.keymap 2 = some (7, 1) ∧
    keyCoordinate st.params.keymap 3 = some (7, 1) := by decide

theorem witness_PressedKeyShowsInFullRead : st.krow = Vector.replicate 8 0b11111 ∧
    keyCoordinate st.params.keymap 1 = some (1, 0) ∧ (0x00FE : Word).getLsbD 0 = false ∧
    (0x0000 : Word).toNat < 256 ∧ (0x00FF : Word).toNat < 256 := by decide

theorem witness_EvenPortWriteLatchesBorder :
    (0x0000 : Word).getLsbD 0 = false ∧ (0xFFFE : Word).getLsbD 0 = false := by decide
theorem witness_KeysReadShowsSelectedRows : ∃ port : Word, port.getLsbD 0 = false := ⟨0, by decide⟩
/-- The case of a bit that reads 0: V21. -/
theorem witness_KeysReadShowsSelectedRows_pressed :
    (0xFE00 : Word).getLsbD (8 + (0 : Fin 8)) = false ∧ keys.krow[(0 : Fin 8)].getLsbD 0 = false := by
  decide
theorem witness_KeysReadOfUnionIsAnd : ∃ port : Word, port.getLsbD 0 = false := ⟨0x00FE, by decide⟩
theorem witness_OddPortWriteDoesNothing :
    (0x0001 : Word).getLsbD 0 = true ∧ (0xFFFF : Word).getLsbD 0 = true := by decide
theorem witness_OddPortReadReturnsAllOnes : ∃ port : Word, port.getLsbD 0 = true :=
  ⟨0x00FF, by decide⟩
theorem witness_PortReadDependsOnKeysOnly : keys.krow = (keys.setBorder 5).krow ∧
    (Instr.ioRdKeys 0x00FE 0).wf keys.params.romSize = true ∧
    (Instr.ioRdFloat 0x00FF 0).wf keys.params.romSize = true := by decide

/-- A memory with one cell. -/
def oneCell : State := st.write 0x8000 0x55
theorem witness_MemReadAnswersTheByte : Memory.wf oneCell.params oneCell.mem ∧
    ((0x8000 : Word).toNat, (0x55 : Byte)) ∈ oneCell.mem := by decide
theorem witness_MemReadAnswersTheByte_rom : oneCell.params.romImage.length = oneCell.params.romSize ∧
    oneCell.RomIntact ∧ (0x0000 : Word).toNat < oneCell.params.romSize ∧
    (0x0001 : Word).toNat < oneCell.params.romSize := by decide
theorem witness_MemReadAnswersTheByte_unlisted : ∀ c ∈ oneCell.mem,
    c.1 ≠ (0x0001 : Word).toNat ∧ c.1 ≠ (0x0002 : Word).toNat ∧ c.1 ≠ (0xFFFF : Word).toNat := by decide
theorem witness_RamWriteStoresOneByte : Memory.wf oneCell.params oneCell.mem ∧
    oneCell.params.romSize ≤ (0x0002 : Word).toNat ∧
    oneCell.params.romSize ≤ (0xFFFF : Word).toNat := by decide
theorem witness_RomWriteIsDropped : (0x0000 : Word).toNat < st.params.romSize ∧
    (0x0001 : Word).toNat < st.params.romSize := by decide

theorem witness_PlanesAreCoveredExactly :
    bitmapAddr 0 0 = 0x4000 ∧ bitmapAddr 255 191 = 0x57FF ∧ attrAddr 0 0 = 0x5800 ∧
    attrAddr 255 191 = 0x5AFF := by decide
theorem witness_DecodeIsAFunctionOfVideoMemory :
    oneCell.params.palette = st.params.palette ∧ oneCell.flash = st.flash ∧
    oneCell.border = st.border ∧
    ∀ a : Word, 0x4000 ≤ a.toNat → a.toNat ≤ 0x5AFF →
      memRead oneCell.params oneCell.mem a.toNat = memRead st.params st.mem a.toNat :=
  ⟨rfl, rfl, rfl, fun a _ h => memRead_memWrite_ne st.params st.mem 0x55
    (show a.toNat ≠ 0x8000 by omega)⟩
theorem witness_OneWriteChangesOnlyItsPixels : Memory.wf st.params st.mem ∧
    st.params.romSize ≤ (0x4000 : Word).toNat ∧ bitmapAddr 8 0 ≠ 0x4000 ∧ attrAddr 8 0 ≠ 0x4000 ∧
    bitmapAddr 8 7 ≠ 0x5800 ∧ attrAddr 8 7 ≠ 0x5800 := by decide

/-- A flashing cell with ink 7 and paper 0, and the one with ink 0 and paper 7. -/
theorem witness_FlashExchangesInkAndPaper :
    let s := (st.write 0x5800 0x87).setFlash true 0
    let t := st.write 0x5800 0xB8
    let a := s.read (attrAddr 0 0)
    let b := t.read (attrAddr 0 0)
    s.params = t.params ∧ s.flash = true ∧ t.flash = false ∧
    s.read (bitmapAddr 0 0) = t.read (bitmapAddr 0 0) ∧
    a.getLsbD 7 = true ∧ a.getLsbD 6 = b.getLsbD 6 ∧ a.extractLsb' 0 3 = b.extractLsb' 3 3 ∧
    a.extractLsb' 3 3 = b.extractLsb' 0 3 := by decide
theorem witness_FlashExchangesInkAndPaper_steady :
    let s := (st.write 0x5800 0x47).setFlash true 0
    let t := st.write 0x5800 0x47
    s.read (bitmapAddr 0 0) = t.read (bitmapAddr 0 0) ∧ (s.read (attrAddr 0 0)).getLsbD 7 = false ∧
    s.read (attrAddr 0 0) = t.read (attrAddr 0 0) := by decide

theorem witness_PollAppliesEventsInOrder : st.phase = .polling ∧ Event.quit ∉ ([] : List Event) ∧
    Event.quit ∉ [Event.key 1 true, .key 1 false] := by decide
theorem witness_QuitEndsTheRunInPolling : st.phase = .polling ∧
    Event.quit ∉ [Event.key 1 true] ∧ (stIn .decoding 0).phase ≠ .polling ∧
    (stIn .decoding 0).phase ≠ .terminated ∧ (stIn .terminated 0).started = true ∧
    (stIn .terminated 0).phase = .terminated := by decide
theorem witness_CpuStepPerformsTransactionsInOrder : (stIn .executing 9).phase = .executing ∧
    (stIn .executing 9).fcyc < cyclesPerFrame (stIn .executing 9).params := by decide
theorem witness_CpuStepCompletesAndKeepsTheRest : (stIn .executing 0).phase = .executing ∧
    (stIn .executing 0).fcyc < cyclesPerFrame (stIn .executing 0).params ∧
    Memory.wf (stIn .executing 0).params (stIn .executing 0).mem := by decide
theorem witness_FrameIrqEmitsOneRequest : (stIn .executing 10).phase = .executing ∧
    cyclesPerFrame (stIn .executing 10).params ≤ (stIn .executing 10).fcyc := by decide
theorem witness_DecodeRendersThenAdvancesFlash : (stIn .decoding 10).phase = .decoding := rfl

/-- A state with a picture, next to be presented. -/
def ready : State := (stIn .presenting 10).setPicture plain 7
theorem witness_PresentHandsOverTheFrame : ready.phase = .presenting ∧ ready.pix = some plain ∧
    ready.brgb = some 7 := ⟨rfl, rfl, rfl⟩
theorem witness_PresentWithoutPictureFaults : (stIn .presenting 10).phase = .presenting ∧
    (stIn .presenting 10).pix = none ∧ { ready with brgb := none }.brgb = none := ⟨rfl, rfl, rfl⟩
theorem witness_ThrottleSleepsTheRemainder : (stIn .throttling 10).phase = .throttling ∧
    (19999999 : Nat) * par.frameRateHz < 1000000000 ∧ 1000000000 ≤ (20000000 : Nat) * par.frameRateHz := by
  decide

theorem witness_ResetLeavesRomImageZerosAndBlackBorder : par.romImage.length = par.romSize ∧
    1 < par.romSize ∧ par.romSize ≤ (0x0002 : Word).toNat := by decide
theorem witness_PhaseOperationsRefusedElsewhere :
    (stIn .decoding 10).phase ≠ .polling ∧ (stIn .decoding 10).phase ≠ .executing ∧
    cyclesPerFrame (stIn .executing 10).params ≤ (stIn .executing 10).fcyc ∧
    (stIn .executing 9).fcyc < cyclesPerFrame (stIn .executing 9).params ∧
    st.phase ≠ .decoding ∧ st.phase ≠ .presenting ∧ st.phase ≠ .throttling := by decide
theorem witness_UnselectedOperationsRefused : (0x00FF : Word).getLsbD 0 = true ∧
    (0x00FE : Word).getLsbD 0 = false ∧ (0x0001 : Word).toNat < st.params.romSize ∧
    st.params.romSize ≤ (0x0002 : Word).toNat := by decide

theorem witness_DecodeOfEncodeIsTheOperation : (Instr.ioWrBorder 0xFFFE 0xFF).wf 0x4000 = true ∧
    (Instr.ioWrNop 0xFFFF 0xFF).wf 0x4000 = true ∧ (Instr.memWrRam 0x4000 0).wf 0x4000 = true ∧
    (Instr.memWrRom 0x3FFF 0).wf 0x4000 = true ∧ Instr.reset.wf 0 = true := by decide
theorem witness_EncodeOfDecodeIsTheRecord :
    decode 0x4000 ⟨.ior, [], [0xFFFF, 0xFFFF]⟩ = .ok (.ioRdFloat 0xFFFF 0xFFFF) := by decide
theorem witness_OutOfRangeCoordinatesRejected :
    decode 0 ⟨.key, [], [8, 4, 0]⟩ = .error (.outOfRange .row) ∧
    decode 0 ⟨.key, [], [7, 5, 0]⟩ = .error (.outOfRange .bit) ∧
    decode 0 ⟨.row, [], [8]⟩ = .error (.outOfRange .row) ∧
    decode 0 ⟨.pxy, [], [256, 191]⟩ = .error (.outOfRange .x) ∧
    decode 0 ⟨.pxy, [], [255, 192]⟩ = .error (.outOfRange .y) := by decide

theorem witness_StepRunsTheDecodedScriptLine : st.started = true ∧ st.phase ≠ .terminated ∧
    (st.setScript [⟨.ev, [], []⟩]).script = ⟨.ev, [], []⟩ :: [] ∧
    decode st.params.romSize ⟨.ev, [], []⟩ = .ok .quit ∧
    decode st.params.romSize ⟨.ev, [], [0]⟩ = .error (.wrongOperands .ev) := by decide
theorem witness_StepRunsThePhaseOperation : st.SystemLevel ∧ st.phase = .polling ∧
    (stIn .executing 9).fcyc < cyclesPerFrame par ∧ (stIn .executing 9).reports = [] ∧
    ((stIn .executing 9).setReports [⟨[], 4⟩]).reports = [⟨[], 4⟩] ∧
    cyclesPerFrame par ≤ (stIn .executing 10).fcyc ∧ (stIn .decoding 0).SystemLevel ∧
    (stIn .presenting 0).SystemLevel ∧ (stIn .throttling 0).SystemLevel := by decide

theorem st_params_wf : st.params.Wf := by decide
theorem witness_ResetOperationSetsEveryElement : off.started = false ∧ off.params.Wf := by decide
theorem witness_ResetHappensOnceBeforeEverything : off.started = false ∧ off.script = [] ∧
    decode off.params.romSize ⟨.seq0 .reset, [], []⟩ = .ok .reset ∧
    decode off.params.romSize ⟨.ev, [], []⟩ = .ok .quit ∧ used.started = true ∧
    ¬ { par with romSize := 3 }.Wf := by decide
theorem witness_ResetHappensOnceBeforeEverything_step : st.started = true ∧ ∃ t, step st = .next t :=
  ⟨rfl, _, rfl⟩

/-- A state with a picture meets the invariant. -/
theorem ready_inv : ready.Inv where
  params := st_params_wf
  memory := by decide
  rom    := by decide
  ready  := fun _ => ⟨by simp [ready], by simp [ready]⟩
  pixels := fun pix h y x => ⟨0, by
    obtain rfl : plain = pix := Option.some.inj h
    simp [plain, ready, stIn, st, State.powerOn, par, pal, State.setPicture, State.setPhase,
      State.setFcyc]⟩
  border := fun c h => ⟨7, by decide, (Option.some.inj h).symm⟩

theorem witness_StepKeepsInvariant : ready.Inv ∧ ∃ t, step ready = .next t := ⟨ready_inv, _, rfl⟩
/-- A script line that stores, and one in the read-only region that is dropped. -/
theorem witness_StepKeepsReadOnlyRegion : st.RomIntact ∧
    (st.params.romImage.length = st.params.romSize ∧ 1 < st.params.romSize) ∧
    (∃ t, step (st.setScript [⟨.mw, [], [2, 0xAA]⟩]) = .next t) ∧
    ∃ t, step (st.setScript [⟨.mw, [], [1, 0xAA]⟩]) = .next t :=
  ⟨by decide, by decide, ⟨_, rfl⟩, _, rfl⟩
theorem witness_EachPhaseOwnsItsState : st.SystemLevel ∧ (∃ t, step st = .next t) ∧
    (stIn .decoding 10).SystemLevel ∧ ∃ t, step (stIn .decoding 10) = .next t :=
  ⟨⟨rfl, rfl⟩, ⟨_, rfl⟩, ⟨rfl, rfl⟩, _, rfl⟩
theorem witness_OneInterruptPerFrame : (stIn .executing 10).SystemLevel ∧
    irqCount (stIn .executing 10).outputs = presentCount (stIn .executing 10).outputs +
      (if (stIn .executing 10).phase = .decoding ∨ (stIn .executing 10).phase = .presenting
        then 1 else 0) ∧
    ∃ t, step (stIn .executing 10) = .next t := ⟨⟨rfl, rfl⟩, by decide, _, rfl⟩
theorem witness_FlashFollowsTheFrameNumber : (stIn .decoding 10).SystemLevel ∧
    (stIn .decoding 10).flashAge = (presentCount (stIn .decoding 10).outputs +
      if (stIn .decoding 10).phase = .presenting then 1 else 0) % 32 ∧
    ∃ t, step (stIn .decoding 10) = .next t := ⟨⟨rfl, rfl⟩, by decide, _, rfl⟩
theorem witness_ExecutingEndsUnderProgress :
    let s := (stIn .executing 8).setReports [⟨[.memRd 0], 1⟩, ⟨[], 1⟩]
    s.SystemLevel ∧ s.phase = .executing ∧ CpuProgress s.reports ∧
    cyclesPerFrame s.params ≤ s.fcyc + s.reports.length := by decide
theorem witness_FrameScriptRunsOneFrame :
    let steps : List (List Txn × Nat) := [([.ioWr 0xFE 0x0E], 4), ([], 5), ([], 4)]
    let s := st.setScript (frameRecords [.key 1 true] steps)
    s.started = true ∧ s.phase = .polling ∧ Event.quit ∉ [Event.key 1 true] ∧
    s.script = frameRecords [.key 1 true] steps ∧
    (∀ k, k < steps.length → ((steps.take k).map (·.2)).sum < cyclesPerFrame s.params) ∧
    cyclesPerFrame s.params ≤ (steps.map (·.2)).sum := by decide

end Sys2Proof.Machine.Tests
end

section
/-! PROOFS. The parameters of the reset state meet their premises, and a block with such parameters meets the
invariant right after `RESET`. -/

namespace Sys2Proof

/-- The first entry of `PALETTE` is black: no bit of a colour component is set (R8). -/
theorem Config.params_palette_zero :
    Config.params.palette[0] = Config.blackPadding &&& ~~~Config.pixelFormat.components := by
  simp [Config.params]

/-- The ninth entry of `PALETTE` is the same black (R8). -/
theorem Config.params_palette_eight :
    Config.params.palette[8] = Config.blackPadding &&& ~~~Config.pixelFormat.components := by
  simp [Config.params]

/-- What the padding of black holds never shows in a colour component (R8). -/
theorem PixelFormat.padding_and_components (f : PixelFormat) (c : Colour) :
    c &&& ~~~f.components &&& f.components = 0 := by
  rw [BitVec.and_assoc, BitVec.and_comm (~~~f.components), BitVec.and_not_self]
  exact BitVec.and_zero

/-- The parameters of the reset state meet the premises of R7, R8, R9 and R262, whatever the values of the
opaque constants they are made of. -/
theorem Config.params_wf : Config.params.Wf := by
  refine ⟨?romSize, ?romImage, ?sameBlack, ?black, ?frameRate, ?budget⟩
  case romSize => exact Nat.le_of_lt_succ Config.romSize.isLt
  case romImage => simp [Config.params]
  case sameBlack => rw [Config.params_palette_zero, Config.params_palette_eight]
  case black =>
    rw [Config.params_palette_zero]
    exact PixelFormat.padding_and_components Config.pixelFormat Config.blackPadding
  case frameRate => exact Nat.succ_pos _
  case budget => exact Nat.le_add_right _ _

namespace Machine

/-- Right after `RESET` memory lists no cell, no picture exists and PRESENT is not next (R36, R43, R260), so of
the invariant only the premises on the parameters are left. -/
theorem State.powerOn_inv {p : Params} (h : p.Wf) : (State.powerOn p).Inv where
  params := h
  memory := memWf_nil p
  rom    := List.forall_mem_nil _
  ready  := nofun
  pixels := nofun
  border := nofun

end Machine

/-- Settles O44: the parameters of the reset state are well-formed, and a block that starts with well-formed
parameters meets the invariant. -/
theorem resetMeetsInvariant : Obligations.ResetMeetsInvariant :=
  Machine.State.powerOn_inv Config.params_wf

end Sys2Proof
end

section
/-! PROOFS. PRESENT without a picture, and the contents of memory and `BORDER` right after `RESET`. -/

namespace Sys2Proof

namespace Machine

/-! ### Presenting -/

/-- PRESENT reads both `PIX` and `BRGB`, and either one without a value is the fault (R43). -/
theorem execPresent_noPicture {s : State} (hp : s.phase = .presenting)
    (h : s.pix = none ∨ s.brgb = none) : execPresent s = .fault .noPicture := by
  unfold execPresent
  rw [if_pos hp]
  rcases h with hpix | hbrgb
  · rw [hpix]
  · rw [hbrgb]
    cases s.pix <;> rfl

/-! ### Memory at reset -/

/-- Below `ROM_SIZE` an address with no cell reads as the byte of a full `ROM_IMAGE` (R36). -/
theorem romImage_getElem?_eq_unlisted {p : Params} {a : Nat} (hlen : p.romImage.length = p.romSize)
    (ha : a < p.romSize) : p.romImage[a]? = some (unlisted p a) := by
  have hb : a < p.romImage.length := hlen.symm ▸ ha
  rw [unlisted, if_pos ha, List.getD_eq_getElem _ _ hb, List.getElem?_eq_getElem hb]

/-- From `ROM_SIZE` up an address with no cell reads as 0 (R36). -/
theorem unlisted_eq_zero {p : Params} {a : Nat} (ha : p.romSize ≤ a) : unlisted p a = 0 :=
  if_neg (Nat.not_lt.2 ha)

/-- No cell is listed right after `RESET` (R36, R260). -/
theorem memRead_powerOn (p : Params) (a : Nat) :
    memRead p (State.powerOn p).mem a = unlisted p a :=
  memRead_unlisted (List.forall_mem_nil _)

end Machine

/-- Settles O32: whichever of `PIX` and `BRGB` has no value, PRESENT has no picture to emit. -/
theorem presentWithoutPictureFaults : Obligations.PresentWithoutPictureFaults :=
  fun _ hp h => Machine.execPresent_noPicture hp h

/-- Settles O35: memory right after `RESET` lists no cell, so every address reads as its contents at reset;
the parameters of `State.reset` carry a full `ROM_IMAGE`. -/
theorem resetLeavesRomImageZerosAndBlackBorder :
    Obligations.ResetLeavesRomImageZerosAndBlackBorder := by
  obtain ⟨-, hfull, -⟩ := Config.params_wf
  refine ⟨fun p hlen => ⟨fun a ha => ?rom, fun a ha => ?ram, ?border⟩, ?reset, hfull⟩
  case rom =>
    rw [Machine.memRead_powerOn]
    exact Machine.romImage_getElem?_eq_unlisted hlen ha
  case ram =>
    rw [Machine.memRead_powerOn]
    exact Machine.unlisted_eq_zero ha
  case border => rfl
  case reset => rfl

end Sys2Proof
end

section
/-! PROOFS. The addresses of a pixel as numbers, and the two planes of video memory they cover. -/

namespace Sys2Proof

namespace Machine

/-! ### Addresses as numbers -/

/-- A field of at most 16 bits keeps its value as a 16-bit word. -/
theorem coordField_toNat (v lo : Nat) {width : Nat} (h : width ≤ 16) :
    (coordField v lo width).toNat = v / 2 ^ lo % 2 ^ width := by
  have hw : v / 2 ^ lo % 2 ^ width < 2 ^ width := Nat.mod_lt _ (Nat.two_pow_pos width)
  exact (BitVec.toNat_ofNat _ _).trans
    (Nat.mod_eq_of_lt (hw.trans_le (Nat.pow_le_pow_right (by decide) h)))

/-- OR with a value that lies below the lowest set bit adds it: each field of an address is put under the
fields already placed. -/
theorem or_eq_add_of_dvd_of_lt (n : Nat) {a b : Nat} (ha : 2 ^ n ∣ a) (hb : b < 2 ^ n) :
    a ||| b = a + b := by
  obtain ⟨k, rfl⟩ := ha
  exact (Nat.two_pow_add_eq_or_of_lt hb k).symm

/-- The fields of a bitmap address do not overlap, so it is a plain sum (R91). -/
theorem bitmapAddr_toNat (x : Fin 256) (y : Fin 192) : (bitmapAddr x y).toNat =
    0x4000 + y.val / 64 * 2048 + y.val % 8 * 256 + y.val / 8 % 8 * 32 + x.val / 8 := by
  have hthird : y.val / 64 % 4 * 2048 % 65536 = y.val / 64 * 2048 := by omega
  have hline : y.val % 8 * 256 % 65536 = y.val % 8 * 256 := Nat.mod_eq_of_lt (by omega)
  have hrow : y.val / 8 % 8 * 32 % 65536 = y.val / 8 % 8 * 32 :=
    Nat.mod_eq_of_lt (by omega)
  have hcol : x.val / 8 % 32 = x.val / 8 := by omega
  simp only [bitmapAddr, bitmapBase, BitVec.toNat_or, BitVec.toNat_shiftLeft, coordField_toNat,
    Nat.shiftLeft_eq, Nat.reducePow, Nat.reduceLeDiff, BitVec.reduceToNat, Nat.div_one, hthird, hline,
    hrow, hcol]
  rw [or_eq_add_of_dvd_of_lt 13 (a := 0x4000) (by omega) (by omega),
    or_eq_add_of_dvd_of_lt 11 (b := y.val % 8 * 256) (by omega) (by omega),
    or_eq_add_of_dvd_of_lt 8 (b := y.val / 8 % 8 * 32) (by omega) (by omega),
    or_eq_add_of_dvd_of_lt 5 (b := x.val / 8) (by omega) (by omega)]

/-- The sum of an attribute address does not wrap (R93). -/
theorem attrAddr_toNat (x : Fin 256) (y : Fin 192) :
    (attrAddr x y).toNat = 0x5800 + y.val / 8 * 32 + x.val / 8 := by
  simp only [attrAddr, attrBase, BitVec.toNat_add, BitVec.toNat_mul, coordField_toNat, Nat.reducePow,
    Nat.reduceLeDiff, BitVec.reduceToNat]
  omega

/-! ### The pixels of an address -/

/-- The bitmap byte of a pixel serves its line and its group of 8 columns (R52). -/
theorem bitmapAddr_eq_iff (x x' : Fin 256) (y y' : Fin 192) :
    bitmapAddr x y = bitmapAddr x' y' ↔ y = y' ∧ x.val / 8 = x'.val / 8 := by
  rw [← BitVec.toNat_inj, bitmapAddr_toNat, bitmapAddr_toNat, Fin.ext_iff]
  omega

/-- The attribute byte of a pixel serves its cell of 8 by 8 pixels (R52). -/
theorem attrAddr_eq_iff (x x' : Fin 256) (y y' : Fin 192) :
    attrAddr x y = attrAddr x' y' ↔ y.val / 8 = y'.val / 8 ∧ x.val / 8 = x'.val / 8 := by
  rw [← BitVec.toNat_inj, attrAddr_toNat, attrAddr_toNat]
  omega

/-- An address of the bitmap plane is cut into its fields (R91), and the fields put back in their places in
`x` and `y` name a pixel of it. -/
theorem exists_bitmapAddr_eq {a : Word} (hlo : 0x4000 ≤ a.toNat) (hhi : a.toNat ≤ 0x57FF) :
    ∃ x y, bitmapAddr x y = a := by
  obtain ⟨third, line, row, col, hthird, hline, hrow, hcol, ha⟩ : ∃ third line row col,
      third < 3 ∧ line < 8 ∧ row < 8 ∧ col < 32 ∧
      a.toNat = 0x4000 + third * 2048 + line * 256 + row * 32 + col :=
    ⟨(a.toNat - 0x4000) / 2048, a.toNat / 256 % 8, a.toNat / 32 % 8, a.toNat % 32, by omega⟩
  refine ⟨⟨col * 8, by omega⟩, ⟨third * 64 + row * 8 + line, by omega⟩, BitVec.eq_of_toNat_eq ?_⟩
  have hthird' : (third * 64 + row * 8 + line) / 64 = third := by omega
  have hline' : (third * 64 + row * 8 + line) % 8 = line := by omega
  have hrow' : (third * 64 + row * 8 + line) / 8 % 8 = row := by omega
  rw [bitmapAddr_toNat, hthird', hline', hrow', Nat.mul_div_cancel col (by decide), ha]

/-- The offset of an address in the attribute plane, divided by the 32 cells of a row, is its cell. -/
theorem exists_attrAddr_eq {a : Word} (hlo : 0x5800 ≤ a.toNat) (hhi : a.toNat ≤ 0x5AFF) :
    ∃ x y, attrAddr x y = a := by
  refine ⟨⟨a.toNat % 32 * 8, by omega⟩, ⟨(a.toNat - 0x5800) / 32 * 8, by omega⟩,
    BitVec.eq_of_toNat_eq ?_⟩
  rw [attrAddr_toNat]
  dsimp only
  omega

end Machine

/-- Settles O17: two addresses agree exactly when their fields do, and each address of a plane is the one of
the pixel its fields name. -/
theorem planesAreCoveredExactly : Obligations.PlanesAreCoveredExactly :=
  ⟨fun x x' y y' => ⟨Machine.bitmapAddr_eq_iff x x' y y', Machine.attrAddr_eq_iff x x' y y'⟩,
    fun _ => Machine.exists_bitmapAddr_eq, fun _ => Machine.exists_attrAddr_eq⟩

end Sys2Proof
end


section
/-! PROOFS. The decoder and the encoder are inverse to each other (R80, R98). Each reader of an operand, of a
record inside a record and of a line is characterised by the value it reads: it answers `a` exactly on the
encoding of `a`. -/

namespace Sys2Proof

/-! ### Operands -/

@[simp] theorem except_ok_bind {ε α β : Type} (a : α) (f : α → Except ε β) :
    (Except.ok a >>= f) = f a := rfl

/-- A sequence of two computations answers when the first does and the second does on its answer. -/
theorem except_bind_eq_ok_iff {ε α β : Type} {x : Except ε α} {f : α → Except ε β} {b : β} :
    (x >>= f) = .ok b ↔ ∃ a, x = .ok a ∧ f a = .ok b := by
  cases x with
  | error e => exact ⟨nofun, nofun⟩
  | ok a => exact ⟨fun h => ⟨a, rfl, h⟩, fun ⟨_, rfl, h⟩ => h⟩

theorem readFin_eq_ok_iff {n v : Nat} {o : OperandName} {i : Fin n} :
    readFin n o v = .ok i ↔ i.val = v := by
  unfold readFin
  split
  next h => rw [Except.ok.injEq, Fin.ext_iff, eq_comm]
  next h => exact ⟨nofun, fun e => absurd (e ▸ i.isLt) h⟩

theorem readBits_eq_ok_iff {w v : Nat} {o : OperandName} {b : BitVec w} :
    readBits w o v = .ok b ↔ b.toNat = v := by
  unfold readBits
  split
  next h => rw [Except.ok.injEq, ← BitVec.toNat_inj, BitVec.toNat_ofNat, Nat.mod_eq_of_lt h, eq_comm]
  next h => exact ⟨nofun, fun e => absurd (e ▸ b.isLt) h⟩

theorem readPressed_eq_ok_iff {v : Nat} {p : Bool} : readPressed v = .ok p ↔ pressedValue p = v := by
  match v with
  | 0 => cases p <;> simp [readPressed, pressedValue]
  | 1 => cases p <;> simp [readPressed, pressedValue]
  | n + 2 => cases p <;> simp [readPressed, pressedValue]

@[simp] theorem readFin_val {n : Nat} (o : OperandName) (i : Fin n) : readFin n o i.val = .ok i :=
  readFin_eq_ok_iff.2 rfl

@[simp] theorem readBits_toNat {w : Nat} (o : OperandName) (b : BitVec w) :
    readBits w o b.toNat = .ok b :=
  readBits_eq_ok_iff.2 rfl

@[simp] theorem readPressed_pressedValue (p : Bool) : readPressed (pressedValue p) = .ok p :=
  readPressed_eq_ok_iff.2 rfl

/-! ### Records inside a record -/

/-- An item of POLL decodes to the event whose record it is, and to no other. -/
theorem decodeEvent_eq_ok_iff {it : Item} {e : Event} :
    decodeEvent it = .ok e ↔ encodeEvent e = it := by
  constructor
  · intro h
    obtain ⟨f, vs⟩ := it
    dsimp only [decodeEvent] at h
    split at h
    next =>
      obtain ⟨p, hp, ⟨⟩⟩ := except_bind_eq_ok_iff.1 h
      rw [encodeEvent, readPressed_eq_ok_iff.1 hp]
    next => cases h; rfl
    next => cases h
  · rintro rfl
    cases e with
    | key id pressed => simp [decodeEvent, encodeEvent]
    | quit => rfl

/-- An item of STEP decodes to the transaction whose record it is, and to no other. -/
theorem decodeTxn_eq_ok_iff {it : Item} {t : Txn} : decodeTxn it = .ok t ↔ encodeTxn t = it := by
  constructor
  · intro h
    obtain ⟨f, vs⟩ := it
    dsimp only [decodeTxn] at h
    split at h
    case h_5 => cases h
    all_goals simp only [except_bind_eq_ok_iff, readBits_eq_ok_iff] at h
    case h_1 => obtain ⟨addr, rfl, ⟨⟩⟩ := h; rfl
    case h_2 => obtain ⟨addr, rfl, data, rfl, ⟨⟩⟩ := h; rfl
    case h_3 => obtain ⟨port, rfl, rowsel, rfl, ⟨⟩⟩ := h; rfl
    case h_4 => obtain ⟨port, rfl, data, rfl, ⟨⟩⟩ := h; rfl
  · rintro rfl
    cases t <;> simp [decodeTxn, encodeTxn]

/-- A list of items decodes, item by item, to the list it is the encoding of. -/
theorem decodeItems_eq_ok_iff {α : Type} {f : Item → Except DecodeError α} {g : α → Item}
    (hfg : ∀ {it a}, f it = .ok a ↔ g a = it) {its : List Item} {as : List α} :
    decodeItems f its = .ok as ↔ as.map g = its := by
  induction its generalizing as with
  | nil => simp [decodeItems, eq_comm]
  | cons it its ih =>
    simp only [decodeItems, except_bind_eq_ok_iff, hfg, ih, Except.ok.injEq, List.map_eq_cons_iff]
    constructor
    · rintro ⟨a, ha, as', has, rfl⟩; exact ⟨a, as', rfl, ha, has⟩
    · rintro ⟨a, as', rfl, ha, has⟩; exact ⟨a, ha, as', has, rfl⟩

@[simp] theorem decodeItems_map_encodeEvent (es : List Event) :
    decodeItems decodeEvent (es.map encodeEvent) = .ok es :=
  (decodeItems_eq_ok_iff decodeEvent_eq_ok_iff).2 rfl

@[simp] theorem decodeItems_map_encodeTxn (ts : List Txn) :
    decodeItems decodeTxn (ts.map encodeTxn) = .ok ts :=
  (decodeItems_eq_ok_iff decodeTxn_eq_ok_iff).2 rfl

/-! ### Lines -/

/-- The mnemonic of a line of format SEQ0 names an operation with that line for its record. -/
theorem encode_decodeSeqOp (op : SeqOp) : encode (decodeSeqOp op) = ⟨.seq0 op, [], []⟩ := by
  cases op <;> rfl

/-- An operation of format SEQ0 has no operand to select another row. -/
theorem decodeSeqOp_wf (romSize : Nat) (op : SeqOp) : (decodeSeqOp op).wf romSize = true := by
  cases op <;> rfl

/-- A well-formed operation is what its record decodes to: each operand reads back as itself, and the operands
that select the row select it again. -/
theorem decode_encode {romSize : Nat} {i : Instr} (h : i.wf romSize = true) :
    decode romSize (encode i) = .ok i := by
  cases i with
  | ioWrBorder port data =>
    have hp : port.getLsbD 0 = false := by simpa only [Instr.wf, Bool.not_eq_true'] using h
    simp only [encode, decode, readBits_toNat, except_ok_bind, hp, Bool.false_eq_true, if_false]
  | ioWrNop port data =>
    have hp : port.getLsbD 0 = true := h
    simp only [encode, decode, readBits_toNat, except_ok_bind, hp, if_true]
  | ioRdKeys port rowsel =>
    have hp : port.getLsbD 0 = false := by simpa only [Instr.wf, Bool.not_eq_true'] using h
    simp only [encode, decode, readBits_toNat, except_ok_bind, hp, Bool.false_eq_true, if_false]
  | ioRdFloat port rowsel =>
    have hp : port.getLsbD 0 = true := h
    simp only [encode, decode, readBits_toNat, except_ok_bind, hp, if_true]
  | memWrRam addr data =>
    have ha : romSize ≤ addr.toNat := of_decide_eq_true h
    simp only [encode, decode, readBits_toNat, except_ok_bind, ha, if_true]
  | memWrRom addr data =>
    have ha : ¬ romSize ≤ addr.toNat := Nat.not_le.2 (of_decide_eq_true h)
    simp only [encode, decode, readBits_toNat, except_ok_bind, ha, if_false]
  | videoDecode | quit | frameIrq | decode | flashAdvance | present | throttle | reset => rfl
  | keySet | rowState | hostKey | memRd | pixel | poll | cpuStep => simp [encode, decode]

/-- A record that decodes is the encoding of the operation it decodes to, and the operands of that operation
select it. -/
theorem encode_eq_and_wf_of_decode {romSize : Nat} {r : Record} {i : Instr}
    (h : decode romSize r = .ok i) : encode i = r ∧ i.wf romSize = true := by
  obtain ⟨f, items, vs⟩ := r
  dsimp only [decode] at h
  split at h
  case h_9 op => -- SEQ0
    cases h
    exact ⟨encode_decodeSeqOp op, decodeSeqOp_wf romSize op⟩
  case h_11 => -- EV
    cases h
    exact ⟨rfl, rfl⟩
  case h_13 => -- any other line
    cases h
  all_goals simp only [except_bind_eq_ok_iff, readFin_eq_ok_iff, readBits_eq_ok_iff,
    readPressed_eq_ok_iff, decodeItems_eq_ok_iff decodeEvent_eq_ok_iff,
    decodeItems_eq_ok_iff decodeTxn_eq_ok_iff] at h
  case h_1 => -- KEY
    obtain ⟨row, rfl, bit, rfl, pressed, rfl, ⟨⟩⟩ := h
    exact ⟨rfl, rfl⟩
  case h_2 => -- ROW
    obtain ⟨row, rfl, ⟨⟩⟩ := h
    exact ⟨rfl, rfl⟩
  case h_3 => -- HKEY
    obtain ⟨pressed, rfl, ⟨⟩⟩ := h
    exact ⟨rfl, rfl⟩
  case h_4 => -- IOW
    obtain ⟨port, rfl, data, rfl, ⟨⟩⟩ := h
    split
    next hp => exact ⟨rfl, hp⟩
    next hp => exact ⟨rfl, by simpa [Instr.wf] using hp⟩
  case h_5 => -- IOR
    obtain ⟨port, rfl, rowsel, rfl, ⟨⟩⟩ := h
    split
    next hp => exact ⟨rfl, hp⟩
    next hp => exact ⟨rfl, by simpa [Instr.wf] using hp⟩
  case h_6 => -- MR
    obtain ⟨addr, rfl, ⟨⟩⟩ := h
    exact ⟨rfl, rfl⟩
  case h_7 => -- MW
    obtain ⟨addr, rfl, data, rfl, ⟨⟩⟩ := h
    split
    next ha => exact ⟨rfl, decide_eq_true ha⟩
    next ha => exact ⟨rfl, decide_eq_true (Nat.lt_of_not_le ha)⟩
  case h_8 => -- PXY
    obtain ⟨x, rfl, y, rfl, ⟨⟩⟩ := h
    exact ⟨rfl, rfl⟩
  case h_10 => -- POLL
    obtain ⟨events, rfl, ⟨⟩⟩ := h
    exact ⟨rfl, rfl⟩
  case h_12 => -- STEP
    obtain ⟨txns, rfl, ⟨⟩⟩ := h
    exact ⟨rfl, rfl⟩

/-- The decoder answers an operation exactly on that operation's record, and only when its operands select
it. -/
theorem decode_eq_ok_iff {romSize : Nat} {r : Record} {i : Instr} :
    decode romSize r = .ok i ↔ encode i = r ∧ i.wf romSize = true :=
  ⟨encode_eq_and_wf_of_decode, fun ⟨hr, hwf⟩ => hr ▸ decode_encode hwf⟩

/-- Settles O39: the operands of an operation read back as themselves. -/
theorem decodeOfEncodeIsTheOperation : Obligations.DecodeOfEncodeIsTheOperation :=
  fun _ _ => decode_encode

/-- Settles O40: each branch of the decoder reads the operands of one record, and they are those the encoder
writes. -/
theorem encodeOfDecodeIsTheRecord : Obligations.EncodeOfDecodeIsTheRecord :=
  fun _ _ _ => encode_eq_and_wf_of_decode

/-- Settles O38: each record is the encoding of the operation it stands for, whose operands select it. -/
theorem specRecordsDecode : Obligations.SpecRecordsDecode := by
  refine ⟨?_, ?_, ?_, ?_, ?_, ?_, ?_, ?_, ?_, ?_, ?_, ?_, ?_⟩
  all_goals exact decode_eq_ok_iff.2 (by decide)

end Sys2Proof
end

section
/-! PROOFS. Ports and memory writes outside their own row are refused, and which bits a port operation
moves. -/

namespace Sys2Proof

namespace Machine

/-! ### Operations whose operands select another row -/

theorem portSelected_of_even {port : Word} (h : port.getLsbD 0 = false) : portSelected port = true :=
  (portSelected_iff port).2 h

theorem portSelected_of_odd {port : Word} (h : port.getLsbD 0 = true) : portSelected port = false := by
  rw [portSelected, h, Bool.not_true]

/-! ### Port bits -/

/-- `BORDER` takes `data[3:1]` (R84). -/
theorem borderField_bit (data : Byte) (i : Fin 3) :
    (borderField data).getLsbD i = data.getLsbD (i + 1) := by
  rw [borderField, BitVec.getLsbD_extractLsb', decide_eq_true i.isLt, Bool.true_and, Nat.add_comm]

/-- The loop of R132 visits every row. -/
theorem mem_keyRows (i : Fin 8) : i ∈ ([0, 1, 2, 3, 4, 5, 6, 7] : List (Fin 8)) := by
  decide +revert

/-- Above the five columns a read of the even port shows ones (R85). -/
theorem keysByte_bit_of_le (krow : Vector (BitVec 5) 8) (rowsel : Word) {b : Nat} (h5 : 5 ≤ b)
    (h8 : b < 8) : (keysByte krow rowsel).getLsbD b = true := by
  rw [keysByte_bit _ _ b h8, decide_eq_true h5, Bool.true_or]

/-- A column shows 0 exactly when a selected row has its key pressed (R85, R132). -/
theorem keysByte_bit_eq_false_iff (krow : Vector (BitVec 5) 8) (rowsel : Word) (b : Fin 5) :
    (keysByte krow rowsel).getLsbD b = false ↔
      ∃ i : Fin 8, rowsel.getLsbD (8 + i) = false ∧ krow[i].getLsbD b = false := by
  have h5 : ¬ 5 ≤ b.val := Nat.not_le.2 b.isLt
  have h8 : b.val < 8 := by omega
  rw [keysByte_bit _ _ b h8, decide_eq_false h5, Bool.false_or, List.all_eq_false]
  simp only [mem_keyRows, true_and, rowByte_bit _ _ h8, decide_eq_false h5, Bool.false_or, Bool.or_eq_true,
    not_or, Bool.not_eq_true]

end Machine

open Machine

/-- Settles O6: an even port selects the latch, and the latch takes the field. -/
theorem evenPortWriteLatchesBorder : Obligations.EvenPortWriteLatchesBorder := by
  intro s port data hport
  refine ⟨borderField data, ?_, borderField_bit data⟩
  simp only [exec, execIoWrBorder, State.portWrite, portSelected_of_even hport, if_true, State.setBorder]

/-- Settles O37: each operation first compares its operands with its row of the table. -/
theorem unselectedOperationsRefused : Obligations.UnselectedOperationsRefused := by
  intro s port rowsel addr data
  refine ⟨fun hodd => ?odd, fun heven => ?even, fun hrom => ?ram, fun hram => ?rom⟩
  case odd =>
    simp [exec, execIoWrBorder, execIoRdKeys, portSelected_of_odd hodd]
  case even =>
    simp [exec, execIoWrNop, execIoRdFloat, portSelected_of_even heven]
  case ram => exact if_neg (Nat.not_le.2 hrom)
  case rom => exact if_pos hram

/-- Settles O8: an even port reads `KROW`, and each bit of the answer is the AND of the selected rows' bits. -/
theorem keysReadShowsSelectedRows : Obligations.KeysReadShowsSelectedRows := by
  intro s port rowsel hport
  refine ⟨keysByte s.krow rowsel, ?answer, ⟨?_, ?_, ?_⟩, keysByte_bit_eq_false_iff s.krow rowsel⟩
  case answer =>
    simp only [exec, execIoRdKeys, State.portRead, portSelected_of_even hport, if_true, State.emit]
  all_goals exact keysByte_bit_of_le _ _ (by decide) (by decide)

end Sys2Proof
end

section
/-! PROOFS. The fields of the two video addresses: as a concatenation, and as the terms of the source's
formula. -/

namespace Sys2Proof

namespace Machine

/-- A concatenation of words is the sum of the high word, moved up, and the low word. -/
theorem toNat_append_eq_add {m n : Nat} (a : BitVec m) (b : BitVec n) :
    (a ++ b).toNat = a.toNat * 2 ^ n + b.toNat := by
  rw [BitVec.toNat_append, ← Nat.shiftLeft_add_eq_or_of_lt b.isLt, Nat.shiftLeft_eq]

/-- A masked field, moved up, is the field's value at its new place. -/
theorem and_fieldMask_shiftLeft (v lo width n : Nat) :
    (v &&& (2 ^ width - 1) <<< lo) <<< n = v / 2 ^ lo % 2 ^ width * 2 ^ (lo + n) := by
  have hmask : v &&& (2 ^ width - 1) <<< lo = (v / 2 ^ lo % 2 ^ width) <<< lo := by
    refine Nat.eq_of_testBit_eq fun j => ?_
    simp only [Nat.testBit_and, Nat.testBit_shiftLeft, Nat.testBit_two_pow_sub_one,
      Nat.testBit_mod_two_pow, Nat.testBit_div_two_pow]
    by_cases h : lo ≤ j
    · simp [h, Bool.and_comm]
    · simp [h]
  rw [hmask, ← Nat.shiftLeft_add, Nat.shiftLeft_eq]

/-- R91: no field of the bitmap address overlaps another, so the concatenation has the same value. -/
theorem bitmapAddr_eq_append (x : Fin 256) (y : Fin 192) :
    bitmapAddr x y = 0b010#3 ++ (BitVec.ofNat 8 y).extractLsb' 6 2 ++ (BitVec.ofNat 8 y).extractLsb' 0 3
      ++ (BitVec.ofNat 8 y).extractLsb' 3 3 ++ (BitVec.ofNat 8 x).extractLsb' 3 5 := by
  refine BitVec.eq_of_toNat_eq ?_
  simp only [bitmapAddr_toNat, toNat_append_eq_add, BitVec.extractLsb'_toNat, BitVec.toNat_ofNat,
    Nat.shiftRight_eq_div_pow]
  omega

/-- R93: the sum of the attribute address has no carry between its fields. -/
theorem attrAddr_eq_append (x : Fin 256) (y : Fin 192) :
    attrAddr x y = 0b010110#6 ++ (BitVec.ofNat 8 y).extractLsb' 3 5
      ++ (BitVec.ofNat 8 x).extractLsb' 3 5 := by
  refine BitVec.eq_of_toNat_eq ?_
  simp only [attrAddr_toNat, toNat_append_eq_add, BitVec.extractLsb'_toNat, BitVec.toNat_ofNat,
    Nat.shiftRight_eq_div_pow]
  omega

end Machine

open Machine

/-- Settles O15: each masked term of the source's formula is a field in its place, and no term reaches into
another, so OR and `+` agree in every grouping. -/
theorem bitmapAddrIsInterleaved : Obligations.BitmapAddrIsInterleaved := by
  intro x y
  have hthird : (y.val &&& 0xC0) <<< 5 = y.val / 64 % 4 * 2048 := and_fieldMask_shiftLeft y 6 2 5
  have hline : (y.val &&& 0x07) <<< 8 = y.val / 1 % 8 * 256 := and_fieldMask_shiftLeft y 0 3 8
  have hrow : (y.val &&& 0x38) <<< 2 = y.val / 8 % 8 * 32 := and_fieldMask_shiftLeft y 3 3 2
  have hcol : x.val >>> 3 = x.val / 8 := Nat.shiftRight_eq_div_pow x 3
  have hhigh : (0x4000 + (y.val &&& 0xC0) <<< 5) ||| (y.val &&& 0x07) <<< 8 =
      0x4000 + y.val / 64 * 2048 + y.val % 8 * 256 := by
    rw [hthird, hline, or_eq_add_of_dvd_of_lt 11 (by omega) (by omega)]
    omega
  refine ⟨bitmapAddr_eq_append x y, ?cGrouping, ?leftGrouping, bitmapAddr_toNat x y, ?lower, ?upper⟩
  all_goals rw [bitmapAddr_toNat]
  case cGrouping =>
    rw [hhigh, hrow, hcol, or_eq_add_of_dvd_of_lt 8 (by omega) (by omega), Nat.add_assoc _ _ (x.val / 8)]
  case leftGrouping =>
    rw [hhigh, hrow, hcol, or_eq_add_of_dvd_of_lt 8 (by omega) (by omega)]
  case lower => omega
  case upper => omega

/-- Settles O16: the sum and the concatenation of the fields have one value. -/
theorem attrAddrIsLinear : Obligations.AttrAddrIsLinear := by
  intro x y
  refine ⟨attrAddr_toNat x y, attrAddr_eq_append x y, ?lower, ?upper⟩
  all_goals rw [attrAddr_toNat]
  case lower => omega
  case upper => omega

end Sys2Proof
end

section
/-! PROOFS. Runs cut in two, and script lines: a step performs the operation of the first line (R98). -/

namespace Sys2Proof

namespace Machine

/-! ### Runs -/

theorem run_succ (M : Host.Core) {s t : M.State} (n : Nat) (h : M.step s = .next t) :
    M.run (n + 1) s = M.run n t := by
  rw [Host.Core.run, h]

/-- A run is cut at any state it passes through. -/
theorem run_add (M : Host.Core) {m : Nat} {s t : M.State} (n : Nat) (h : M.run m s = .next t) :
    M.run (m + n) s = M.run n t := by
  induction m generalizing s with
  | zero => cases h; rw [Nat.zero_add]
  | succ m ih =>
    rw [Nat.add_right_comm]
    rw [Host.Core.run] at h ⊢
    split at h
    · exact ih h
    · cases h
    · cases h

/-! ### One script line -/

section
variable {s : State} {r : Record} {rest : List Record} (hstarted : s.started = true)
  (hphase : s.phase ≠ .terminated) (hscript : s.script = r :: rest)
include hstarted hphase hscript

/-- In a block that has been reset and is not in Terminated, the first script line says what is performed. -/
theorem step_script_line {i : Instr} (hi : decode s.params.romSize r = .ok i) :
    step s = exec i (s.setScript rest) := by
  simp [step, fetch, hstarted, hphase, hscript, hi]

/-- A first script line that is no operation is refused. -/
theorem step_undecodable_line {e : DecodeError} (he : decode s.params.romSize r = .error e) :
    step s = .refused (.undecodable e) := by
  simp [step, fetch, hstarted, hphase, hscript, he]

end

/-- A line written by the encoder performs the operation it was made from. -/
theorem core_run_script_line {s t : State} {i : Instr} {rest : List Record} (n : Nat)
    (hstarted : s.started = true) (hphase : s.phase ≠ .terminated)
    (hscript : s.script = encode i :: rest) (hwf : i.wf s.params.romSize = true)
    (hexec : exec i (s.setScript rest) = .next t) : core.run (n + 1) s = core.run n t :=
  run_succ core n ((step_script_line hstarted hphase hscript (decode_encode hwf)).trans hexec)

end Machine

/-- Settles O42: the step of a block with a pending script line is the operation that line decodes to. -/
theorem stepRunsTheDecodedScriptLine : Obligations.StepRunsTheDecodedScriptLine :=
  fun _ _ _ hstarted hphase hscript =>
    ⟨fun _ => Machine.step_script_line hstarted hphase hscript,
      fun _ => Machine.step_undecodable_line hstarted hphase hscript⟩

end Sys2Proof
end

section
/-! PROOFS. The script `FRAME` (R99) in its three parts: POLL, the steps of the processor, and the end of the
frame. -/

namespace Sys2Proof

namespace Machine

/-- The line of one step of the processor (R99). -/
def cpuStepRecord (st : List Txn × Nat) : Record := encode (.cpuStep st.1 st.2)

/-- The POLL of a frame without a quit starts Executing with no cycle counted (R191). -/
theorem core_run_pollLine {s : State} {events : List Event} {rest : List Record} (n : Nat)
    (hstarted : s.started = true) (hphase : s.phase = .polling) (hquit : Event.quit ∉ events)
    (hscript : s.script = encode (.poll events) :: rest) : ∃ krow,
    core.run (n + 1) s =
      core.run n { s with krow := krow, fcyc := 0, phase := .executing, script := rest } := by
  obtain ⟨krow, hpoll⟩ := (s.setScript rest).pollEvents_frame events
  rw [if_neg hquit] at hpoll
  refine ⟨krow, core_run_script_line n hstarted (by rw [hphase]; decide) hscript rfl ?_⟩
  exact (if_pos hphase).trans (congrArg _ hpoll)

/-- Lines of processor steps, each below the budget where it stands, add up their cycles and leave only results
in the history (R193, R194). -/
theorem core_run_cpuStepLines {s : State} {steps : List (List Txn × Nat)} {rest : List Record}
    (hstarted : s.started = true) (hphase : s.phase = .executing)
    (hscript : s.script = steps.map cpuStepRecord ++ rest)
    (hbudget : ∀ k, k < steps.length →
      s.fcyc + ((steps.take k).map (·.2)).sum < cyclesPerFrame s.params) :
    ∃ mem border results, (∀ o ∈ results, ∃ v, o = Output.result v) ∧
      core.run steps.length s = .next { s with
        mem := mem, border := border, fcyc := s.fcyc + (steps.map (·.2)).sum
        outputs := results ++ s.outputs, script := rest } := by
  induction steps generalizing s with
  | nil =>
    obtain rfl : s.script = rest := hscript
    exact ⟨s.mem, s.border, [], nofun, rfl⟩
  | cons st steps ih =>
    obtain ⟨m1, b1, r1, hperform, hr1, -⟩ :=
      (s.setScript (steps.map cpuStepRecord ++ rest)).performAll_frame st.1
    have hfirst : s.fcyc < cyclesPerFrame s.params := hbudget 0 (Nat.succ_pos _)
    have hexec : exec (.cpuStep st.1 st.2) (s.setScript (steps.map cpuStepRecord ++ rest)) =
        .next { s with mem := m1, border := b1, fcyc := s.fcyc + st.2, outputs := r1 ++ s.outputs
                       script := steps.map cpuStepRecord ++ rest } :=
      (if_pos ⟨hphase, hfirst⟩).trans (by rw [hperform]; rfl)
    obtain ⟨m2, b2, r2, hr2, hrun⟩ := ih (s := { s with
        mem := m1, border := b1, fcyc := s.fcyc + st.2, outputs := r1 ++ s.outputs
        script := steps.map cpuStepRecord ++ rest }) hstarted hphase rfl fun k hk => by
      simpa [Nat.add_assoc] using hbudget (k + 1) (Nat.succ_lt_succ hk)
    refine ⟨m2, b2, r2 ++ r1, List.forall_mem_append.2 ⟨hr2, hr1⟩, ?_⟩
    rw [List.length_cons, core_run_script_line _ hstarted (by rw [hphase]; decide) hscript rfl hexec,
      hrun]
    simp [Nat.add_assoc]

/-! ### The end of the frame -/

/-- PRESENT emits the values of `PIX` and `BRGB` (R198). -/
theorem execPresent_picture {s : State} {pix : Picture} {brgb : Colour} (hphase : s.phase = .presenting)
    (hpix : s.pix = some pix) (hbrgb : s.brgb = some brgb) :
    execPresent s = .next ((s.emit (.present pix brgb)).setPhase .throttling) := by
  rw [execPresent, if_pos hphase, hpix, hbrgb]

section
variable {s : State} {rest : List Record} (n : Nat) (hstarted : s.started = true)
include hstarted

/-- FRAME_IRQ with the budget used up makes one request (R195). -/
theorem core_run_frameIrqLine (hphase : s.phase = .executing)
    (hscript : s.script = encode .frameIrq :: rest) (hbudget : cyclesPerFrame s.params ≤ s.fcyc) :
    core.run (n + 1) s = core.run n { s with
      outputs := .irq s.params.intVector :: s.outputs, phase := .decoding, script := rest } :=
  core_run_script_line n hstarted (by rw [hphase]; decide) hscript rfl (if_pos ⟨hphase, hbudget⟩)

/-- DECODE gives `PIX` and `BRGB` a value (R196). -/
theorem core_run_decodeLine (hphase : s.phase = .decoding) (hscript : s.script = encode .decode :: rest) :
    ∃ pix brgb flash flashcnt, core.run (n + 1) s = core.run n { s with
      pix := some pix, brgb := some brgb, flash := flash, flashcnt := flashcnt
      phase := .presenting, script := rest } :=
  ⟨_, _, _, _,
    core_run_script_line n hstarted (by rw [hphase]; decide) hscript rfl (if_pos hphase)⟩

/-- PRESENT hands the picture over (R198). -/
theorem core_run_presentLine {pix : Picture} {brgb : Colour} (hphase : s.phase = .presenting)
    (hscript : s.script = encode .present :: rest) (hpix : s.pix = some pix) (hbrgb : s.brgb = some brgb) :
    core.run (n + 1) s = core.run n { s with
      outputs := .present pix brgb :: s.outputs, phase := .throttling, script := rest } :=
  core_run_script_line n hstarted (by rw [hphase]; decide) hscript rfl
    (execPresent_picture (s := s.setScript rest) hphase hpix hbrgb)

/-- THROTTLE starts the next frame; what it may emit is neither a request nor a picture (R199). -/
theorem core_run_throttleLine (hphase : s.phase = .throttling)
    (hscript : s.script = encode .throttle :: rest) : ∃ os,
    irqCount (os ++ s.outputs) = irqCount s.outputs ∧
    presentCount (os ++ s.outputs) = presentCount s.outputs ∧
    core.run (n + 1) s =
      core.run n { s with outputs := os ++ s.outputs, phase := .polling, script := rest } := by
  obtain ⟨os, hsleep, hos⟩ := (s.setScript rest).sleepRest_frame
  have hexec : exec .throttle (s.setScript rest) =
      .next { s with outputs := os ++ s.outputs, phase := .polling, script := rest } :=
    (if_pos hphase).trans (by rw [hsleep]; rfl)
  have hrun := core_run_script_line n hstarted (by rw [hphase]; decide) hscript rfl hexec
  rcases hos with rfl | ⟨amount, rfl⟩
  · exact ⟨[], rfl, rfl, hrun⟩
  · exact ⟨[.sleep amount], rfl, rfl, hrun⟩

end

/-- The lines that end a frame (R99). -/
def frameEndRecords : List Record :=
  [encode .frameIrq, encode .decode, encode .present, encode .throttle]

/-- `FRAME` is its three parts in order (R99). -/
theorem frameRecords_eq (events : List Event) (steps : List (List Txn × Nat)) :
    frameRecords events steps =
      encode (.poll events) :: (steps.map cpuStepRecord ++ frameEndRecords) := rfl

/-- From a used-up budget the end of a frame makes one request, hands over one picture and returns to Polling
(R195 to R199). -/
theorem core_run_frameEndLines {s : State} (hstarted : s.started = true) (hphase : s.phase = .executing)
    (hscript : s.script = frameEndRecords) (hbudget : cyclesPerFrame s.params ≤ s.fcyc) :
    ∃ t, core.run 4 s = .next t ∧ t.phase = .polling ∧ t.script = [] ∧ t.fcyc = s.fcyc ∧
      irqCount t.outputs = irqCount s.outputs + 1 ∧
      presentCount t.outputs = presentCount s.outputs + 1 := by
  have hirqLine := core_run_frameIrqLine 3 hstarted hphase hscript hbudget
  obtain ⟨pix, brgb, flash, flashcnt, hdecodeLine⟩ := core_run_decodeLine 2
    (s := { s with
      outputs := .irq s.params.intVector :: s.outputs, phase := .decoding
      script := [encode .decode, encode .present, encode .throttle] }) hstarted rfl rfl
  have hpresentLine := core_run_presentLine 1
    (s := { s with
      outputs := .irq s.params.intVector :: s.outputs
      pix := some pix, brgb := some brgb, flash := flash, flashcnt := flashcnt
      phase := .presenting, script := [encode .present, encode .throttle] }) hstarted rfl rfl rfl rfl
  obtain ⟨os, hirq, hpresent, hthrottleLine⟩ := core_run_throttleLine 0
    (s := { s with
      outputs := .present pix brgb :: .irq s.params.intVector :: s.outputs
      pix := some pix, brgb := some brgb, flash := flash, flashcnt := flashcnt
      phase := .throttling, script := [encode .throttle] }) hstarted rfl rfl
  exact ⟨_, hirqLine.trans (hdecodeLine.trans (hpresentLine.trans hthrottleLine)), rfl, rfl, rfl, hirq,
    hpresent⟩

end Machine

open Machine

/-- Settles O52: the run is cut after POLL and after the last processor step; up to there the history gains only
results, and the end of the frame adds the one request and the one picture. -/
theorem frameScriptRunsOneFrame : Obligations.FrameScriptRunsOneFrame := by
  intro s events steps hstarted hphase hquit hscript hbefore hafter
  obtain ⟨krow, hpoll⟩ := core_run_pollLine (steps.length + 4) hstarted hphase hquit
    (hscript.trans (frameRecords_eq events steps))
  obtain ⟨mem, border, results, hresults, hsteps⟩ := core_run_cpuStepLines (steps := steps)
    (s := { s with krow := krow, fcyc := 0, phase := .executing
                   script := steps.map cpuStepRecord ++ frameEndRecords })
    hstarted rfl rfl (by simpa only [Nat.zero_add] using hbefore)
  obtain ⟨t, hend, htphase, htscript, htfcyc, htirq, htpresent⟩ := core_run_frameEndLines
    (s := { s with
      krow := krow, phase := .executing, mem := mem, border := border
      fcyc := 0 + (steps.map (·.2)).sum, outputs := results ++ s.outputs, script := frameEndRecords })
    hstarted rfl rfl (by simpa only [Nat.zero_add] using hafter)
  obtain ⟨hirq, hpresent⟩ := counts_of_results (ps := s.outputs) hresults
  refine ⟨t, ?_, htphase, htscript, htfcyc.trans (Nat.zero_add _), by rw [htirq, hirq],
    by rw [htpresent, hpresent]⟩
  exact hpoll.trans ((run_add core 4 hsteps).trans hend)

end Sys2Proof
end

section
/-! PROOFS. The keyboard matrix: one key in `KROW`, what it looks like in a row's byte and in a read of every
row, and the coordinates a record may name. -/

namespace Sys2Proof

namespace Machine

/-! ### Host keys -/

/-- A host key on the matrix acts as `KEY_SET` on its coordinate (R112). -/
theorem State.hostKey_of_mapped {s : State} {id : HostKey} {row : Fin 8} {bit : Fin 5}
    (h : keyCoordinate s.params.keymap id = some (row, bit)) (pressed : Bool) :
    s.hostKey id pressed = s.keySet row bit pressed := by
  rw [State.hostKey, h]

/-- A host key that is not on the matrix does nothing (R112). -/
theorem State.hostKey_of_unmapped {s : State} {id : HostKey}
    (h : keyCoordinate s.params.keymap id = none) (pressed : Bool) : s.hostKey id pressed = s := by
  rw [State.hostKey, h]

/-- `KEY_SET` leaves the parameters, and so the `KEYMAP`, as they were. -/
theorem State.keySet_params (s : State) (row : Fin 8) (bit : Fin 5) (pressed : Bool) :
    (s.keySet row bit pressed).params = s.params := rfl

theorem exec_hostKey_of_mapped {s : State} {id : HostKey} {row : Fin 8} {bit : Fin 5}
    (h : keyCoordinate s.params.keymap id = some (row, bit)) (pressed : Bool) :
    exec (.hostKey id pressed) s = .next (s.keySet row bit pressed) :=
  congrArg _ (State.hostKey_of_mapped h pressed)

/-- Whatever an earlier event left at its coordinate, the event on a mapped key decides the bit (R113). -/
theorem exec_hostKey_keySet_of_mapped {s : State} {id : HostKey} {row : Fin 8} {bit : Fin 5}
    (h : keyCoordinate s.params.keymap id = some (row, bit)) (p q : Bool) :
    exec (.hostKey id q) (s.keySet row bit p) = .next (s.keySet row bit q) := by
  rw [← State.keySet_params s row bit p] at h
  rw [exec_hostKey_of_mapped h, State.keySet_keySet]

/-! ### Reads of the matrix -/

/-- A row's byte is the row under three ones (R111). -/
theorem rowByte_eq_or (row : BitVec 5) : rowByte row = 0xE0 ||| row.setWidth 8 := rfl

/-- The three ones are worth `0xE0`. -/
theorem rowByte_toNat (row : BitVec 5) : (rowByte row).toNat = 0xE0 + row.toNat :=
  toNat_append_eq_add 0b111#3 row

/-- The operation of an even port returns the byte of R132 and changes the history only. -/
theorem exec_ioRdKeys_of_even {port : Word} (h : port.getLsbD 0 = false) (rowsel : Word) (s : State) :
    exec (.ioRdKeys port rowsel) s =
      .next { s with outputs := .result (keysByte s.krow rowsel) :: s.outputs } := by
  simp only [exec, execIoRdKeys, State.portRead, portSelected_of_even h, if_true, State.emit]

/-- A `rowsel` below 256 selects every row (R86). -/
theorem rowsel_bit_of_lt {rowsel : Word} (h : rowsel.toNat < 256) (i : Fin 8) :
    rowsel.getLsbD (8 + i) = false :=
  Nat.testBit_lt_two_pow (h.trans_le (Nat.pow_le_pow_right (n := 2) (by decide) (Nat.le_add_right 8 i)))

/-- No bit of a matrix with all keys released is 0. -/
theorem allReleased_bit (r : Fin 8) (b : Fin 5) :
    (Vector.replicate 8 (0b11111 : BitVec 5))[r].getLsbD b = true := by
  decide +revert

section
variable {s : State} (hreleased : s.krow = Vector.replicate 8 0b11111)
include hreleased

/-- With all other keys released, the only bit that can be 0 is the key's own. -/
theorem keySet_krow_bit_eq_false_iff (row r : Fin 8) (bit b : Fin 5) (pressed : Bool) :
    (s.keySet row bit pressed).krow[r].getLsbD b = false ↔ pressed = true ∧ r = row ∧ b = bit := by
  rw [State.keySet_krow_bit, hreleased, allReleased_bit]
  split
  next h => simp only [Bool.not_eq_false', h, and_self, and_true]
  next h => exact ⟨nofun, fun hkey => absurd hkey.2 h⟩

variable {rowsel : Word} (hall : rowsel.toNat < 256)
include hall

/-- A read of every row shows a 0 in the key's column while the key is pressed, and in no other (R115). -/
theorem keysByte_keySet_bit_eq_false_iff (row : Fin 8) (bit b : Fin 5) (pressed : Bool) :
    (keysByte (s.keySet row bit pressed).krow rowsel).getLsbD b = false ↔
      pressed = true ∧ b = bit := by
  rw [keysByte_bit_eq_false_iff]
  constructor
  · rintro ⟨r, -, hr⟩
    obtain ⟨hpressed, -, hbit⟩ := (keySet_krow_bit_eq_false_iff hreleased row r bit b pressed).1 hr
    exact ⟨hpressed, hbit⟩
  · rintro ⟨hpressed, hbit⟩
    exact ⟨row, rowsel_bit_of_lt hall row,
      (keySet_krow_bit_eq_false_iff hreleased row row bit b pressed).2 ⟨hpressed, rfl, hbit⟩⟩

/-- Every bit of that read, the three ones above the columns included. -/
theorem keysByte_keySet_bit (row : Fin 8) (bit : Fin 5) (pressed : Bool) {b : Nat} (hb : b < 8) :
    (keysByte (s.keySet row bit pressed).krow rowsel).getLsbD b =
      !(pressed && decide (b = bit.val)) := by
  rcases Nat.lt_or_ge b 5 with h5 | h5
  · have hzero := keysByte_keySet_bit_eq_false_iff hreleased hall row bit ⟨b, h5⟩ pressed
    rw [Fin.ext_iff] at hzero
    rw [← Bool.not_inj_iff, Bool.not_not, Bool.eq_iff_iff, Bool.not_eq_true', hzero, Bool.and_eq_true,
      decide_eq_true_iff]
  · have hbit : b ≠ bit.val := by omega
    rw [keysByte_bit_of_le _ _ h5 hb, decide_eq_false hbit, Bool.and_false, Bool.not_false]

/-- A released key leaves ones in every bit of such a read (R115). -/
theorem keysByte_keySet_released (row : Fin 8) (bit : Fin 5) :
    keysByte (s.keySet row bit false).krow rowsel = 0xFF := by
  change _ = BitVec.allOnes 8
  refine BitVec.eq_of_getLsbD_eq fun b hb => ?_
  rw [keysByte_keySet_bit hreleased hall row bit false hb, BitVec.getLsbD_allOnes,
    decide_eq_true hb, Bool.false_and, Bool.not_false]

end

end Machine

/-! ### Coordinates of a record -/

/-- A computation that starts by reading a number below `n` answers only for such a number. -/
theorem readFin_bind_eq_ok {n v : Nat} {o : OperandName} {β : Type} {f : Fin n → Except DecodeError β}
    {b : β} (h : (readFin n o v >>= f) = .ok b) : v < n ∧ ∃ i, f i = .ok b := by
  obtain ⟨i, hi, hf⟩ := except_bind_eq_ok_iff.1 h
  exact ⟨readFin_eq_ok_iff.1 hi ▸ i.isLt, i, hf⟩

section
variable {romSize : Nat} {i : Instr}

/-- A KEY line that is an operation names a key of the matrix (R114). -/
theorem coordinate_lt_of_decode_key {row bit p : Nat}
    (h : decode romSize ⟨.key, [], [row, bit, p]⟩ = .ok i) : row < 8 ∧ bit < 5 := by
  obtain ⟨hrow, _, hrest⟩ := readFin_bind_eq_ok h
  exact ⟨hrow, (readFin_bind_eq_ok hrest).1⟩

/-- A ROW line that is an operation names a row of the matrix (R114). -/
theorem row_lt_of_decode_row {row : Nat} (h : decode romSize ⟨.row, [], [row]⟩ = .ok i) : row < 8 :=
  (readFin_bind_eq_ok h).1

/-- A PXY line that is an operation names a pixel of the screen (R97). -/
theorem coordinate_lt_of_decode_pxy {x y : Nat} (h : decode romSize ⟨.pxy, [], [x, y]⟩ = .ok i) :
    x < 256 ∧ y < 192 := by
  obtain ⟨hx, _, hrest⟩ := readFin_bind_eq_ok h
  exact ⟨hx, (readFin_bind_eq_ok hrest).1⟩

end

open Machine

/-- Settles O1: `KEY_SET` is a write of one bit of `KROW`. -/
theorem keySetWritesOneBit : Obligations.KeySetWritesOneBit :=
  fun s row bit pressed => ⟨(s.keySet row bit pressed).krow, rfl,
    fun r b => s.keySet_krow_bit row r bit b pressed⟩

/-- Settles O2: the result is the row's byte, which is `0xE0` and the row. -/
theorem rowStateReturnsRowUnderThreeOnes : Obligations.RowStateReturnsRowUnderThreeOnes := by
  intro s row
  refine ⟨rowByte s.krow[row], rfl, rowByte_eq_or _, ?_⟩
  rw [rowByte_toNat]
  exact Nat.le_add_right ..

/-- Settles O3: the two cases of `KEYMAP`. -/
theorem hostKeyFollowsKeymap : Obligations.HostKeyFollowsKeymap :=
  fun s _ pressed =>
    ⟨fun row bit h => ⟨s.keySet row bit pressed, exec_hostKey_of_mapped h pressed, rfl⟩,
      fun h => congrArg _ (State.hostKey_of_unmapped h pressed)⟩

/-- Settles O4: both keys write one bit, and the last write to it decides. -/
theorem lastEventOnACoordinateWins : Obligations.LastEventOnACoordinateWins := by
  intro s a b row bit ha hb
  refine ⟨fun p q => ⟨_, exec_hostKey_of_mapped ha p, ?lastWins⟩,
    _, _, _, exec_hostKey_of_mapped ha true, exec_hostKey_keySet_of_mapped hb true true,
    exec_hostKey_keySet_of_mapped ha true false, ?released⟩
  case lastWins => rw [exec_hostKey_keySet_of_mapped hb, exec_hostKey_of_mapped hb]
  case released => rw [State.keySet_krow_bit, if_pos ⟨rfl, rfl⟩, Bool.not_false]

/-- Settles O5: the release undoes the press, so both reads are of a matrix with at most this key pressed. -/
theorem pressedKeyShowsInFullRead : Obligations.PressedKeyShowsInFullRead := by
  intro s id row bit port rowsel hreleased hmap hport hall
  refine ⟨_, _, _, exec_hostKey_of_mapped hmap true, exec_ioRdKeys_of_even hport rowsel _,
    fun b => ?pressedBits, exec_hostKey_keySet_of_mapped hmap true false, ?releasedRead⟩
  case pressedBits =>
    rw [keysByte_keySet_bit hreleased hall row bit true b.isLt, Bool.true_and]
  case releasedRead =>
    rw [exec_ioRdKeys_of_even hport, keysByte_keySet_released hreleased hall]

/-- Settles O41: a record that decodes has its coordinates in range. -/
theorem outOfRangeCoordinatesRejected : Obligations.OutOfRangeCoordinatesRejected := by
  intro romSize row bit p x y i
  refine ⟨fun hout h => ?key, fun hout h => ?row, fun hout h => ?pxy⟩
  case key =>
    obtain ⟨hrow, hbit⟩ := coordinate_lt_of_decode_key h
    omega
  case row => exact absurd (row_lt_of_decode_row h) (Nat.not_lt.2 hout)
  case pxy =>
    obtain ⟨hx, hy⟩ := coordinate_lt_of_decode_pxy h
    omega

end Sys2Proof
end

section
/-! PROOFS. Port operations: what `port[0]` makes of a read and of a write, and the reads of a union of
rows. -/

namespace Sys2Proof

namespace Machine

/-! ### Ports that select nothing -/

/-- A write to an odd port does nothing (R131). -/
theorem State.portWrite_of_odd {port : Word} (h : port.getLsbD 0 = true) (s : State) (data : Byte) :
    s.portWrite port data = s := by
  rw [State.portWrite, portSelected_of_odd h, if_neg Bool.false_ne_true]

/-- A read of an odd port is all ones (R133). -/
theorem State.portRead_of_odd {port : Word} (h : port.getLsbD 0 = true) (s : State) (rowsel : Word) :
    s.portRead port rowsel = 0xFF := by
  rw [State.portRead, portSelected_of_odd h, if_neg Bool.false_ne_true]

theorem exec_ioWrNop_of_odd {port : Word} (h : port.getLsbD 0 = true) (data : Byte) (s : State) :
    exec (.ioWrNop port data) s = .next (s.portWrite port data) :=
  if_neg (Bool.eq_false_iff.1 (portSelected_of_odd h))

/-! ### What a port read depends on -/

/-- The port read that the port selects completes with the split read of R132 and R133, and changes the
history only. -/
theorem exec_portRead_of_wf {romSize : Nat} {port rowsel : Word} {i : Instr}
    (hi : i ∈ [Instr.ioRdKeys port rowsel, Instr.ioRdFloat port rowsel]) (hwf : i.wf romSize = true)
    (s : State) :
    exec i s = .next { s with outputs := .result (s.portRead port rowsel) :: s.outputs } := by
  rcases List.mem_pair.1 hi with rfl | rfl
  · have heven : port.getLsbD 0 = false := (Bool.not_eq_true' _).mp hwf
    exact if_pos (portSelected_of_even heven)
  · have hodd : port.getLsbD 0 = true := hwf
    exact if_neg (Bool.eq_false_iff.1 (portSelected_of_odd hodd))

/-- Of the state, a port read sees `KROW` only (R134). -/
theorem State.portRead_congr_krow {s t : State} (h : s.krow = t.krow) (port rowsel : Word) :
    s.portRead port rowsel = t.portRead port rowsel := by
  rw [State.portRead, State.portRead, h]

/-! ### Unions of rows -/

/-- A row is selected by a 0, so `r1 &&& r2` selects the rows that either selects: a column reads 0 under it
exactly when it does under one of the two (R135 (c)). -/
theorem keysByte_and (krow : Vector (BitVec 5) 8) (r1 r2 : Word) :
    keysByte krow (r1 &&& r2) = keysByte krow r1 &&& keysByte krow r2 := by
  refine BitVec.eq_of_getLsbD_eq fun b hb => ?_
  rw [BitVec.getLsbD_and]
  rcases Nat.lt_or_ge b 5 with h5 | h5
  · have hzero (r : Word) := keysByte_bit_eq_false_iff krow r ⟨b, h5⟩
    rw [← Bool.not_inj_iff, Bool.eq_iff_iff]
    simp only [Bool.not_eq_true', Bool.and_eq_false_iff, hzero, BitVec.getLsbD_and, or_and_right,
      exists_or]
  · simp only [keysByte_bit_of_le krow _ h5 hb, Bool.and_self]

end Machine

open Machine

/-- Settles O9: the bytes of the two reads and of the read of the union are of one `KROW`. -/
theorem keysReadOfUnionIsAnd : Obligations.KeysReadOfUnionIsAnd := by
  intro s port r1 r2 hport
  refine ⟨keysByte s.krow r1, keysByte s.krow r2, exec_ioRdKeys_of_even hport r1 s,
    exec_ioRdKeys_of_even hport r2 s, ?_⟩
  rw [exec_ioRdKeys_of_even hport, keysByte_and]

/-- Settles O11: both states answer the split read, which sees only their common `KROW`. -/
theorem portReadDependsOnKeysOnly : Obligations.PortReadDependsOnKeysOnly := by
  intro s t port rowsel hkrow
  refine ⟨s.portRead port rowsel, fun i hi hwf => ⟨exec_portRead_of_wf hi hwf s, ?_⟩⟩
  rw [State.portRead_congr_krow hkrow]
  exact exec_portRead_of_wf hi hwf t

/-- Settles O7: an odd port selects no latch. -/
theorem oddPortWriteDoesNothing : Obligations.OddPortWriteDoesNothing := by
  intro s port data hport
  rw [exec_ioWrNop_of_odd hport, State.portWrite_of_odd hport]

/-- Settles O10: an odd port selects this read, which asks neither `KROW` nor `rowsel`. -/
theorem oddPortReadReturnsAllOnes : Obligations.OddPortReadReturnsAllOnes := by
  intro s port rowsel hport
  have hwf : (Instr.ioRdFloat port rowsel).wf s.params.romSize = true := hport
  rw [exec_portRead_of_wf (List.mem_pair.2 (.inr rfl)) hwf, State.portRead_of_odd hport]

end Sys2Proof
end

section
/-! PROOFS. The address space (R150 to R152): which byte a read answers, and what the two writes do to
memory. -/

namespace Sys2Proof

namespace Machine

/-! ### The two sides of `ROM_SIZE` -/

/-- From `ROM_SIZE` up a write stores its byte (R151). -/
theorem State.write_of_romSize_le {s : State} {addr : Word} (h : s.params.romSize ≤ addr.toNat)
    (data : Byte) : s.write addr data = s.setMem (memWrite s.params s.mem addr.toNat data) :=
  if_pos h

/-- Below `ROM_SIZE` a write is dropped (R152). -/
theorem State.write_of_lt_romSize {s : State} {addr : Word} (h : addr.toNat < s.params.romSize)
    (data : Byte) : s.write addr data = s :=
  if_neg (Nat.not_le.2 h)

theorem exec_memWrRam_of_romSize_le {s : State} {addr : Word} (h : s.params.romSize ≤ addr.toNat)
    (data : Byte) : exec (.memWrRam addr data) s = .next (s.write addr data) :=
  if_pos h

theorem exec_memWrRom_of_lt_romSize {s : State} {addr : Word} (h : addr.toNat < s.params.romSize)
    (data : Byte) : exec (.memWrRom addr data) s = .next (s.write addr data) :=
  if_neg (Nat.not_le.2 h)

/-! ### The read-only region -/

/-- With a full `ROM_IMAGE` (R262) an address below `ROM_SIZE` that has no cell reads as its byte of the
image. -/
theorem romImage_getElem?_eq_memRead {p : Params} {m : Memory} {a : Nat}
    (hfull : p.romImage.length = p.romSize) (ha : a < p.romSize) (hcell : ∀ c ∈ m, c.1 ≠ a) :
    p.romImage[a]? = some (memRead p m a) := by
  rw [memRead_unlisted hcell]
  exact romImage_getElem?_eq_unlisted hfull ha

/-- An intact read-only region lists no cell below `ROM_SIZE`. -/
theorem State.RomIntact.cell_ne {s : State} (h : s.RomIntact) {a : Nat} (ha : a < s.params.romSize) :
    ∀ c ∈ s.mem, c.1 ≠ a :=
  fun c hc => Nat.ne_of_gt (Nat.lt_of_lt_of_le ha (h c hc))

end Machine

open Machine

/-- Settles O12: the byte is that of the cell listed at the address, or else the contents at reset. -/
theorem memReadAnswersTheByte : Obligations.MemReadAnswersTheByte := by
  intro s addr hwf
  refine ⟨s.read addr, rfl, fun b hb => ?listed, fun hcell hram => ?ram,
    fun hfull hrom => ⟨?image, fun hintact => ?intact⟩⟩
  case listed => exact memRead_of_mem hwf hb
  case ram => exact (memRead_unlisted hcell).trans (unlisted_eq_zero hram)
  case image => exact romImage_getElem?_eq_memRead hfull hrom
  case intact => exact romImage_getElem?_eq_memRead hfull hrom (hintact.cell_ne hrom)

/-- Settles O13: the write is a write of the sparse memory, and a read after it sees the byte at that address
only. -/
theorem ramWriteStoresOneByte : Obligations.RamWriteStoresOneByte := by
  intro s addr data hwf hram
  refine ⟨memWrite s.params s.mem addr.toNat data, ?answer, fun a => ?read⟩
  case answer =>
    rw [exec_memWrRam_of_romSize_le hram, State.write_of_romSize_le hram]
    rfl
  case read => simp only [memRead_memWrite hwf, BitVec.toNat_inj]

/-- Settles O14: an address below `ROM_SIZE` selects the write that is dropped. -/
theorem romWriteIsDropped : Obligations.RomWriteIsDropped := by
  intro s addr data hrom
  rw [exec_memWrRom_of_lt_romSize hrom, State.write_of_lt_romSize hrom]

end Sys2Proof
end

section
/-! PROOFS. The invariant and the read-only region, kept by every step (R153, R169, R190). Each clause of the
invariant is kept on its own account, so one analysis of the operations serves both. -/

namespace Sys2Proof

namespace Machine

/-! ### Keeping the clauses -/

/-- From `s` to `t` the parameters stay, and every clause of the invariant that `s` meets `t` meets too, each
without help from the others. -/
structure State.Keeps (s t : State) : Prop where
  params : t.params = s.params
  memory : Memory.wf s.params s.mem → Memory.wf t.params t.mem
  rom    : s.RomIntact → t.RomIntact
  ready  : s.PictureReady → t.PictureReady
  pixels : s.PictureInPalette → t.PictureInPalette
  border : s.BorderInPalette → t.BorderInPalette

theorem State.Keeps.inv {s t : State} (h : s.Keeps t) (hs : s.Inv) : t.Inv where
  params := h.params ▸ hs.params
  memory := h.memory hs.memory
  rom    := h.rom hs.rom
  ready  := h.ready hs.ready
  pixels := h.pixels hs.pixels
  border := h.border hs.border

theorem State.Keeps.refl (s : State) : s.Keeps s := ⟨rfl, id, id, id, id, id⟩

theorem State.Keeps.trans {s t u : State} (h : s.Keeps t) (h' : t.Keeps u) : s.Keeps u where
  params := h'.params.trans h.params
  memory := h'.memory ∘ h.memory
  rom    := h'.rom ∘ h.rom
  ready  := h'.ready ∘ h.ready
  pixels := h'.pixels ∘ h.pixels
  border := h'.border ∘ h.border

/-- New memory and a new phase keep the clauses when memory keeps its form and gains no cell below `ROM_SIZE`,
and the phase does not become Presenting. -/
theorem State.Keeps.of_same_picture {s t : State} (hparams : t.params = s.params)
    (hpix : t.pix = s.pix) (hbrgb : t.brgb = s.brgb)
    (hwf : Memory.wf s.params s.mem → Memory.wf s.params t.mem)
    (hcells : ∀ c ∈ t.mem, s.params.romSize ≤ c.1 ∨ c ∈ s.mem)
    (hphase : t.phase = .presenting → s.phase = .presenting) : s.Keeps t where
  params := hparams
  memory hs := hparams ▸ hwf hs
  rom hs c hc := hparams ▸ (hcells c hc).elim id (hs c)
  ready hs hp := by
    rw [hpix, hbrgb]
    exact hs (hphase hp)
  pixels hs := by
    unfold State.PictureInPalette
    rwa [hpix, hparams]
  border hs := by
    unfold State.BorderInPalette
    rwa [hbrgb, hparams]

/-- What touches neither memory nor the picture keeps the clauses unless it makes the phase Presenting. -/
theorem State.Keeps.of_same_mem {s t : State} (hparams : t.params = s.params) (hmem : t.mem = s.mem)
    (hpix : t.pix = s.pix) (hbrgb : t.brgb = s.brgb)
    (hphase : t.phase = .presenting → s.phase = .presenting) : s.Keeps t :=
  .of_same_picture hparams hpix hbrgb (hmem ▸ id) (fun _ hc => .inr (hmem ▸ hc)) hphase

/-! ### The shared operations -/

section
variable (s : State)

theorem State.keeps_emit (o : Output) : s.Keeps (s.emit o) := .of_same_mem rfl rfl rfl rfl id

theorem State.keeps_setFcyc (n : Nat) : s.Keeps (s.setFcyc n) := .of_same_mem rfl rfl rfl rfl id

theorem State.keeps_setEvents (events : List Event) : s.Keeps (s.setEvents events) :=
  .of_same_mem rfl rfl rfl rfl id

theorem State.keeps_setReports (reports : List CpuReport) : s.Keeps (s.setReports reports) :=
  .of_same_mem rfl rfl rfl rfl id

theorem State.keeps_setScript (script : List Record) : s.Keeps (s.setScript script) :=
  .of_same_mem rfl rfl rfl rfl id

/-- A phase other than Presenting asks for no picture. -/
theorem State.keeps_setPhase {phase : Phase} (h : phase ≠ .presenting) : s.Keeps (s.setPhase phase) :=
  .of_same_mem rfl rfl rfl rfl fun hp => absurd hp h

theorem State.keeps_keySet (row : Fin 8) (bit : Fin 5) (pressed : Bool) :
    s.Keeps (s.keySet row bit pressed) :=
  .of_same_mem rfl rfl rfl rfl id

theorem State.keeps_flashAdvance : s.Keeps s.flashAdvance := .of_same_mem rfl rfl rfl rfl id

/-- A write keeps the clauses: below `ROM_SIZE` it is dropped (R153). -/
theorem State.keeps_write (addr : Word) (data : Byte) : s.Keeps (s.write addr data) := by
  obtain ⟨mem, hwrite, hwf, hcells, -⟩ := s.write_frame addr data
  rw [hwrite]
  exact .of_same_picture rfl rfl rfl hwf hcells id

theorem State.keeps_performAll (txns : List Txn) : s.Keeps (s.performAll txns) := by
  obtain ⟨mem, border, results, hperform, -, hwf, hcells, -⟩ := s.performAll_frame txns
  rw [hperform]
  exact .of_same_picture rfl rfl rfl hwf hcells id

theorem State.keeps_portWrite (port : Word) (data : Byte) : s.Keeps (s.portWrite port data) :=
  s.keeps_performAll [.ioWr port data]

theorem State.keeps_hostKey (key : HostKey) (pressed : Bool) : s.Keeps (s.hostKey key pressed) := by
  obtain ⟨krow, hkey⟩ := s.hostKey_frame key pressed
  rw [hkey]
  exact .of_same_mem rfl rfl rfl rfl id

/-- POLL ends in Executing or Terminated. -/
theorem State.keeps_pollEvents (events : List Event) : s.Keeps (s.pollEvents events) := by
  obtain ⟨krow, hpoll⟩ := s.pollEvents_frame events
  rw [hpoll]
  split
  · exact .of_same_mem rfl rfl rfl rfl nofun
  · exact .of_same_mem rfl rfl rfl rfl nofun

theorem State.keeps_sleepRest : s.Keeps s.sleepRest := by
  obtain ⟨os, hsleep, -⟩ := s.sleepRest_frame
  rw [hsleep]
  exact .of_same_mem rfl rfl rfl rfl id

/-- The border colour is an entry of the normal half: `BORDER` has three bits (R161). -/
theorem State.borderColour_eq : ∃ i : Fin 16, i.val < 8 ∧ s.borderColour = s.params.palette[i] := by
  obtain ⟨i, hi, hcolour⟩ := paletteColour_eq s.params (s.border.setWidth 4)
  refine ⟨i, ?_, hcolour⟩
  rw [hi, BitVec.toNat_setWidth_of_le (by decide)]
  exact s.border.isLt

/-- The decoder makes a picture and a border colour, and takes both from `PALETTE` (R169 (a), (f)). -/
theorem State.keeps_videoDecode : s.Keeps s.videoDecode where
  params := rfl
  memory := id
  rom := id
  ready _ _ := ⟨Option.some_ne_none _, Option.some_ne_none _⟩
  pixels := by
    intro _ pix hpix y x
    obtain rfl : s.picture = pix := Option.some.inj hpix
    obtain ⟨i, -, hcolour⟩ := paletteColour_eq s.params (s.pixelIndex x y)
    exact ⟨i, (s.picture_get x y).trans hcolour⟩
  border := by
    intro _ c hc
    obtain rfl : s.borderColour = c := Option.some.inj hc
    exact s.borderColour_eq

/-- DECODE makes the picture before the phase becomes Presenting (R196). -/
theorem State.keeps_decode : s.Keeps (s.videoDecode.flashAdvance.setPhase .presenting) :=
  { s.keeps_videoDecode with
    ready := fun _ _ => ⟨Option.some_ne_none _, Option.some_ne_none _⟩ }

/-- `RESET` leaves no cell and no picture (R36, R43). -/
theorem State.keeps_resetBlock : s.Keeps s.resetBlock where
  params := rfl
  memory _ := memWf_nil s.params
  rom _ := List.forall_mem_nil _
  ready := nofun
  pixels := nofun
  border := nofun

end

/-! ### Every operation -/

/-- An operation behind a guard that answers a next state answers the one behind the guard. -/
theorem next_of_guard {c : Prop} {_ : Decidable c} {u t : State} {r : Refusal}
    (h : (if c then .next u else .refused r : Host.Outcome State Fault Refusal) = .next t) : u = t := by
  split at h
  · exact Host.Outcome.next.inj h
  · cases h

theorem next_of_guard_not {c : Prop} {_ : Decidable c} {u t : State} {r : Refusal}
    (h : (if c then .refused r else .next u : Host.Outcome State Fault Refusal) = .next t) : u = t := by
  split at h
  · cases h
  · exact Host.Outcome.next.inj h

/-- Neither way a quit signal goes, into Terminated or into the pending events, is Presenting (R192). -/
theorem keeps_of_execQuit {s t : State} (h : execQuit s = .next t) : s.Keeps t := by
  unfold execQuit at h
  split at h
  · cases h
    exact s.keeps_setPhase nofun
  · obtain rfl := next_of_guard_not h
    exact s.keeps_setEvents _

theorem keeps_of_execPresent {s t : State} (h : execPresent s = .next t) : s.Keeps t := by
  unfold execPresent at h
  split at h
  · split at h
    · cases h
      exact (s.keeps_emit _).trans (State.keeps_setPhase _ nofun)
    · cases h
  · cases h

theorem keeps_of_execReset {s t : State} (h : execReset s = .next t) : s.Keeps t := by
  unfold execReset at h
  split at h
  · cases h
  · obtain rfl := next_of_guard h
    exact s.keeps_resetBlock

/-- No operation breaks a clause of the invariant. -/
theorem keeps_of_exec {i : Instr} {s t : State} (h : exec i s = .next t) : s.Keeps t := by
  cases i with
  | keySet row bit pressed => cases h; exact s.keeps_keySet row bit pressed
  | rowState row => cases h; exact s.keeps_emit _
  | hostKey id pressed => cases h; exact s.keeps_hostKey id pressed
  | ioWrBorder port data => obtain rfl := next_of_guard h; exact s.keeps_portWrite port data
  | ioWrNop port data => obtain rfl := next_of_guard_not h; exact s.keeps_portWrite port data
  | ioRdKeys port rowsel => obtain rfl := next_of_guard h; exact s.keeps_emit _
  | ioRdFloat port rowsel => obtain rfl := next_of_guard_not h; exact s.keeps_emit _
  | memRd addr => cases h; exact s.keeps_emit _
  | memWrRam addr data => obtain rfl := next_of_guard h; exact s.keeps_write addr data
  | memWrRom addr data => obtain rfl := next_of_guard_not h; exact s.keeps_write addr data
  | pixel x y => cases h; exact s.keeps_emit _
  | videoDecode => cases h; exact s.keeps_videoDecode
  | poll events => obtain rfl := next_of_guard h; exact s.keeps_pollEvents events
  | quit => exact keeps_of_execQuit h
  | cpuStep txns cycles =>
    obtain rfl := next_of_guard h
    exact (s.keeps_performAll txns).trans (State.keeps_setFcyc _ _)
  | frameIrq =>
    obtain rfl := next_of_guard h
    exact (s.keeps_emit _).trans (State.keeps_setPhase _ nofun)
  | decode => obtain rfl := next_of_guard h; exact s.keeps_decode
  | flashAdvance => cases h; exact s.keeps_flashAdvance
  | present => exact keeps_of_execPresent h
  | throttle =>
    obtain rfl := next_of_guard h
    exact s.keeps_sleepRest.trans (State.keeps_setPhase _ nofun)
  | reset => exact keeps_of_execReset h

/-! ### Every step -/

/-- Taking the operands of a phase's operation from the inputs touches nothing of the block. -/
theorem keeps_of_sequencerFetch {s u : State} {i : Instr} (h : sequencerFetch s = .ok (i, u)) :
    s.Keeps u := by
  unfold sequencerFetch at h
  cases hphase : s.phase <;> simp only [hphase] at h
  case polling => cases h; exact s.keeps_setEvents []
  case executing =>
    split at h
    · split at h
      · cases h
      · cases h; exact s.keeps_setReports _
    · cases h; exact .refl s
  case terminated => cases h
  all_goals cases h; exact .refl s

/-- No step breaks a clause of the invariant: `RESET`, a script line or the operation of the phase. -/
theorem keeps_of_step {s t : State} (h : step s = .next t) : s.Keeps t := by
  obtain ⟨-, -, rest, rfl⟩ | ⟨-, r, rest, i, -, -, -, hexec⟩ | ⟨-, -, i, u, hfetch, hexec⟩ :=
    step_next_cases h
  · exact (s.keeps_setScript rest).trans (State.keeps_resetBlock _)
  · exact (s.keeps_setScript rest).trans (keeps_of_exec hexec)
  · exact (keeps_of_sequencerFetch hfetch).trans (keeps_of_exec hexec)

end Machine

open Machine

/-- Settles O46: every step keeps each clause. -/
theorem stepKeepsInvariant : Obligations.StepKeepsInvariant :=
  fun _ _ hinv hstep => (keeps_of_step hstep).inv hinv

/-- Settles O47: a step puts no cell into the read-only region, and an address with no cell reads as
`ROM_IMAGE`. -/
theorem stepKeepsReadOnlyRegion : Obligations.StepKeepsReadOnlyRegion := by
  intro s t hintact hstep
  have hkeeps : s.Keeps t := keeps_of_step hstep
  have hintact' : t.RomIntact := hkeeps.rom hintact
  refine ⟨hintact', hkeeps.params, ?_⟩
  rw [← hkeeps.params]
  exact fun hfull a ha => romImage_getElem?_eq_memRead hfull ha (hintact'.cell_ne ha)

end Sys2Proof
end

section
/-! PROOFS. The video decoder (R160 to R169): the palette index of a pixel as a number, what a pixel depends on,
and the frame the decoder makes of the pixels. -/

namespace Sys2Proof

namespace Machine

/-! ### The two operations -/

theorem exec_pixel (x : Fin 256) (y : Fin 192) (s : State) : exec (.pixel x y) s =
    .next { s with outputs := .colour (s.pixel x y) :: s.outputs } := rfl

theorem exec_videoDecode (s : State) : exec .videoDecode s =
    .next { s with pix := some s.picture, brgb := some s.borderColour } := rfl

/-! ### The fields of an attribute byte and the palette index, as numbers -/

theorem attrInk_toNat (attr : Byte) : (attrInk attr).toNat = attr.toNat % 8 :=
  BitVec.extractLsb'_toNat 0 3 attr

theorem attrPaper_toNat (attr : Byte) : (attrPaper attr).toNat = attr.toNat / 8 % 8 := by
  rw [attrPaper, BitVec.extractLsb'_toNat, Nat.shiftRight_eq_div_pow]

/-- Bit 6 of an attribute byte as the half of the palette it selects (R90, R94). -/
theorem attrBright_half (attr : Byte) :
    (if attrBright attr = true then 8 else 0) = attr.toNat / 64 % 2 * 8 := by
  have hbit : (attrBright attr).toNat = attr.toNat / 64 % 2 := by
    rw [attrBright, BitVec.getLsbD, Nat.toNat_testBit]
  rw [← hbit]
  cases attrBright attr <;> rfl

/-- The bright bit stands above the three bits of the colour (R94). -/
theorem paletteIndex_toNat (bright : Bool) (colour : BitVec 3) :
    (paletteIndex bright colour).toNat = (if bright = true then 8 else 0) + colour.toNat := by
  rw [paletteIndex, toNat_append_eq_add]
  cases bright <;> rfl

/-! ### The index of a pixel (R164, R165) -/

/-- The index as a number: ink and paper exchanged when the cell flashes and `FLASH` is 1 (R164), then the
choice by the pixel's bit, in the half of the bright bit (R165). -/
theorem colourIndex_toNat (attr : Byte) (flash bit : Bool) : (colourIndex attr flash bit).toNat =
    (if attrBright attr = true then 8 else 0) +
      if bit = true then
        if attrFlash attr = true ∧ flash = true then attr.toNat / 8 % 8 else attr.toNat % 8
      else
        if attrFlash attr = true ∧ flash = true then attr.toNat % 8 else attr.toNat / 8 % 8 := by
  simp only [colourIndex, paletteIndex_toNat, apply_ite BitVec.toNat, attrInk_toNat, attrPaper_toNat,
    Bool.and_eq_true]

/-- The exchange of ink and paper leaves the choice between the same two colours. -/
theorem colourIndex_eq_ink_or_paper (attr : Byte) (flash bit : Bool) :
    colourIndex attr flash bit = paletteIndex (attrBright attr) (attrInk attr) ∨
      colourIndex attr flash bit = paletteIndex (attrBright attr) (attrPaper attr) := by
  unfold colourIndex
  cases attrFlash attr && flash <;> cases bit
  · exact .inr rfl
  · exact .inl rfl
  · exact .inl rfl
  · exact .inr rfl

/-- In a cell that does not flash, `FLASH` has no effect (R169 (e)). -/
theorem colourIndex_of_steady {attr : Byte} (h : attrFlash attr = false) (f g bit : Bool) :
    colourIndex attr f bit = colourIndex attr g bit := by
  simp only [colourIndex, h, Bool.false_and]

/-- A flashing attribute under `FLASH = 1` is the attribute with ink and paper exchanged under `FLASH = 0`
(R169 (d)). -/
theorem colourIndex_of_exchanged {a b : Byte} (hflash : attrFlash a = true)
    (hbright : attrBright a = attrBright b) (hink : attrInk a = attrPaper b)
    (hpaper : attrPaper a = attrInk b) (bit : Bool) :
    colourIndex a true bit = colourIndex b false bit := by
  simp only [colourIndex, hflash, hbright, hink, hpaper, Bool.and_true, Bool.and_false, if_true,
    Bool.false_eq_true, if_false]

/-! ### What a pixel depends on -/

/-- The bitmap byte of a pixel, its address written as a number (R91). -/
theorem State.read_bitmapAddr (s : State) (x : Fin 256) (y : Fin 192) : s.read (bitmapAddr x y) =
    memRead s.params s.mem
      (0x4000 + y.val / 64 * 2048 + y.val % 8 * 256 + y.val / 8 % 8 * 32 + x.val / 8) := by
  rw [State.read, bitmapAddr_toNat]

/-- The attribute byte of a pixel, its address written as a number (R93). -/
theorem State.read_attrAddr (s : State) (x : Fin 256) (y : Fin 192) :
    s.read (attrAddr x y) = memRead s.params s.mem (0x5800 + y.val / 8 * 32 + x.val / 8) := by
  rw [State.read, attrAddr_toNat]

theorem bitmapAddr_mem_videoMemory (x : Fin 256) (y : Fin 192) :
    0x4000 ≤ (bitmapAddr x y).toNat ∧ (bitmapAddr x y).toNat ≤ 0x5AFF := by
  rw [bitmapAddr_toNat]
  omega

theorem attrAddr_mem_videoMemory (x : Fin 256) (y : Fin 192) :
    0x4000 ≤ (attrAddr x y).toNat ∧ (attrAddr x y).toNat ≤ 0x5AFF := by
  rw [attrAddr_toNat]
  omega

/-- A palette look-up reads nothing of the parameters but `PALETTE`. -/
theorem paletteColour_congr {p q : Params} {i j : BitVec 4} (hpalette : p.palette = q.palette)
    (hindex : i = j) : paletteColour p i = paletteColour q j := by
  subst hindex
  simp only [paletteColour, hpalette]

/-- A pixel's index depends on `FLASH` and on its two bytes only (R166). -/
theorem State.pixelIndex_congr {s t : State} {x : Fin 256} {y : Fin 192} (hflash : s.flash = t.flash)
    (hbitmap : s.read (bitmapAddr x y) = t.read (bitmapAddr x y))
    (hattr : s.read (attrAddr x y) = t.read (attrAddr x y)) : s.pixelIndex x y = t.pixelIndex x y := by
  simp only [State.pixelIndex, hflash, hbitmap, hattr]

/-- A stored byte is seen at its own address only (R151). -/
theorem State.read_write_of_ne {s : State} {addr a : Word} (h : a ≠ addr) (data : Byte) :
    (s.write addr data).read a = s.read a := by
  unfold State.write
  split
  · exact memRead_memWrite_ne s.params s.mem data fun e => h (BitVec.eq_of_toNat_eq e)
  · rfl

/-- A write reaches none of the pixels whose two bytes lie elsewhere (R169 (c)). -/
theorem State.pixel_write_of_ne {s : State} {addr : Word} {x : Fin 256} {y : Fin 192}
    (hbitmap : bitmapAddr x y ≠ addr) (hattr : attrAddr x y ≠ addr) (data : Byte) :
    (s.write addr data).pixel x y = s.pixel x y := by
  obtain ⟨mem, hframe, -⟩ := s.write_frame addr data
  have hparams : (s.write addr data).params = s.params := by rw [hframe]
  have hflash : (s.write addr data).flash = s.flash := by rw [hframe]
  exact paletteColour_congr (congrArg Params.palette hparams) (State.pixelIndex_congr hflash
    (State.read_write_of_ne hbitmap data) (State.read_write_of_ne hattr data))

end Machine

open Machine

/-- Settles O18: the index is the bright bit above ink or paper, each field read from the bytes at the two
addresses. -/
theorem pixelColourFollowsSteps2To5 : Obligations.PixelColourFollowsSteps2To5 := by
  intro s x y bitmap attr swapped ink paper
  obtain ⟨i, hi, hcolour⟩ := paletteColour_eq s.params (s.pixelIndex x y)
  refine ⟨i, hcolour ▸ exec_pixel x y s, ?_⟩
  have hbitmap : s.read (bitmapAddr x y) = bitmap := s.read_bitmapAddr x y
  have hattr : s.read (attrAddr x y) = attr := s.read_attrAddr x y
  rw [hi, State.pixelIndex, hbitmap, hattr]
  exact colourIndex_toNat attr s.flash (pixelBit bitmap x)

/-- Settles O19: the picture's elements are the colours `PIXEL` answers, and the border's index is the value
of `BORDER`. -/
theorem videoDecodeWritesPictureAndBorder : Obligations.VideoDecodeWritesPictureAndBorder := by
  intro s
  obtain ⟨i, hi, hcolour⟩ := paletteColour_eq s.params (s.border.setWidth 4)
  refine ⟨s.picture, i, ?index, hcolour ▸ exec_videoDecode s, fun x y => ?pixel⟩
  case index => rw [hi, BitVec.toNat_setWidth_of_le (by decide)]
  case pixel => rw [State.picture_get, exec_pixel]

/-- Settles O20: both bytes of a pixel lie in video memory, so the two pictures have the same pixels. -/
theorem decodeIsAFunctionOfVideoMemory : Obligations.DecodeIsAFunctionOfVideoMemory := by
  intro s t hpalette hflash hmem
  have hpicture : s.picture = t.picture := State.picture_congr fun x y => by
    obtain ⟨hblo, hbhi⟩ := bitmapAddr_mem_videoMemory x y
    obtain ⟨halo, hahi⟩ := attrAddr_mem_videoMemory x y
    exact paletteColour_congr hpalette
      (State.pixelIndex_congr hflash (hmem _ hblo hbhi) (hmem _ halo hahi))
  refine ⟨s.picture, s.borderColour, t.borderColour, exec_videoDecode s, ?second, fun hborder => ?border⟩
  case second => rw [exec_videoDecode, hpicture]
  case border => exact paletteColour_congr hpalette (congrArg (BitVec.setWidth 4) hborder)

/-- Settles O21: whatever `FLASH` and the bitmap say, the index is that of ink or of paper. -/
theorem cellShowsTwoColours : Obligations.CellShowsTwoColours := by
  intro s x y attr
  obtain ⟨i, hi, hcolour⟩ := paletteColour_eq s.params (s.pixelIndex x y)
  refine ⟨i, hcolour ▸ exec_pixel x y s, ?_⟩
  have hattr : s.read (attrAddr x y) = attr := s.read_attrAddr x y
  rw [hi, State.pixelIndex, hattr]
  rcases colourIndex_eq_ink_or_paper attr s.flash (pixelBit (s.read (bitmapAddr x y)) x) with
    hink | hpaper
  · exact .inl (by rw [hink, paletteIndex_toNat, attrBright_half, attrInk_toNat])
  · exact .inr (by rw [hpaper, paletteIndex_toNat, attrBright_half, attrPaper_toNat])

/-- Settles O22: the write completes, and the pixel's two bytes, `FLASH` and `PALETTE` are as before. -/
theorem oneWriteChangesOnlyItsPixels : Obligations.OneWriteChangesOnlyItsPixels := by
  intro s addr data x y _ hram hbitmap hattr
  exact ⟨s.write addr data, s.pixel x y, exec_memWrRam_of_romSize_le hram data, exec_pixel x y s,
    State.pixel_write_of_ne hbitmap hattr data ▸ exec_pixel x y (s.write addr data)⟩

/-- Settles O23: the index is the same in both states, by the exchange in a cell that flashes and because
`FLASH` is not looked at in one that does not. -/
theorem flashExchangesInkAndPaper : Obligations.FlashExchangesInkAndPaper := by
  intro s t x y hparams hs ht hbitmap a b hcell
  have hindex : s.pixelIndex x y = t.pixelIndex x y := by
    rw [State.pixelIndex, State.pixelIndex, hs, ht, hbitmap]
    rcases hcell with ⟨hflash, hbright, hink, hpaper⟩ | ⟨hsteady, hsame⟩
    · exact colourIndex_of_exchanged hflash hbright hink hpaper _
    · exact (colourIndex_of_steady hsteady true false _).trans (congrArg (colourIndex · false _) hsame)
  have hcolour : s.pixel x y = t.pixel x y :=
    paletteColour_congr (congrArg Params.palette hparams) hindex
  exact ⟨s.pixel x y, exec_pixel x y s, hcolour ▸ exec_pixel x y t⟩

end Sys2Proof
end

section
/-! PROOFS. The operations of the frame sequencer (R190 to R199): what each does where its phase enables it, and
how the transactions of a `CPU_STEP` are the operations their records select. -/

namespace Sys2Proof

namespace Machine

/-! ### Where an operation is enabled -/

theorem exec_poll_of_polling {s : State} (hphase : s.phase = .polling) (events : List Event) :
    exec (.poll events) s = .next (s.pollEvents events) :=
  if_pos hphase

theorem exec_cpuStep_of_lt_budget {s : State} (hphase : s.phase = .executing)
    (hbudget : s.fcyc < cyclesPerFrame s.params) (txns : List Txn) (cycles : Nat) :
    exec (.cpuStep txns cycles) s = .next ((s.performAll txns).setFcyc (s.fcyc + cycles)) :=
  if_pos ⟨hphase, hbudget⟩

theorem exec_frameIrq_of_budget_le {s : State} (hphase : s.phase = .executing)
    (hbudget : cyclesPerFrame s.params ≤ s.fcyc) :
    exec .frameIrq s = .next (s.requestInterrupt.setPhase .decoding) :=
  if_pos ⟨hphase, hbudget⟩

theorem exec_decode_of_decoding {s : State} (hphase : s.phase = .decoding) :
    exec .decode s = .next (s.videoDecode.flashAdvance.setPhase .presenting) :=
  if_pos hphase

theorem exec_throttle_of_throttling {s : State} (hphase : s.phase = .throttling) :
    exec .throttle s = .next (s.sleepRest.setPhase .polling) :=
  if_pos hphase

/-! ### Polling -/

/-- A host key event leaves the block in its phase. -/
theorem State.hostKey_phase (s : State) (id : HostKey) (pressed : Bool) :
    (s.hostKey id pressed).phase = s.phase := by
  obtain ⟨krow, hkey⟩ := s.hostKey_frame id pressed
  rw [hkey]

/-- Without a quit POLL ends in Executing with no cycle counted, and only `KROW` depends on the events (R191). -/
theorem State.pollEvents_of_no_quit (s : State) {events : List Event} (hquit : Event.quit ∉ events) :
    s.pollEvents events =
      { s with krow := (s.pollEvents events).krow, fcyc := 0, phase := .executing } := by
  obtain ⟨krow, hpoll⟩ := s.pollEvents_frame events
  rw [if_neg hquit] at hpoll
  rw [hpoll]

/-- A quit stops POLL where it stands: `KROW` is what the events before it make of it, and neither the events
after it nor the reset of `FCYC` happen (R192, D16). -/
theorem State.pollEvents_append_quit (s : State) {before : List Event} (after : List Event)
    (hquit : Event.quit ∉ before) : s.pollEvents (before ++ .quit :: after) =
      { s with krow := (s.pollEvents before).krow, phase := .terminated } := by
  induction before generalizing s with
  | nil => rfl
  | cons e es ih =>
    cases e with
    | quit => exact absurd List.mem_cons_self hquit
    | key id pressed =>
      obtain ⟨krow, hkey⟩ := s.hostKey_frame id pressed
      rw [List.cons_append, State.pollEvents, State.pollEvents,
        ih _ fun h => hquit (List.mem_cons_of_mem _ h), hkey]

/-! ### The transactions of a `CPU_STEP` -/

/-- The operation a transaction stands for: its operands select the row of the table (R80, R194). -/
def txnInstr (romSize : Nat) : Txn → Instr
  | .memRd addr => .memRd addr
  | .memWr addr data => if romSize ≤ addr.toNat then .memWrRam addr data else .memWrRom addr data
  | .ioRd port rowsel => if portSelected port then .ioRdKeys port rowsel else .ioRdFloat port rowsel
  | .ioWr port data => if portSelected port then .ioWrBorder port data else .ioWrNop port data

/-- The encoding of that operation is the transaction's record, as a line of its own. -/
theorem encode_txnInstr (romSize : Nat) (x : Txn) :
    encode (txnInstr romSize x) = ⟨(encodeTxn x).format, [], (encodeTxn x).values⟩ := by
  cases x with
  | memRd addr => rfl
  | memWr addr data | ioRd port rowsel | ioWr port data =>
    rw [txnInstr]
    split <;> rfl

/-- The operands of a transaction select its operation. -/
theorem txnInstr_wf (romSize : Nat) (x : Txn) : (txnInstr romSize x).wf romSize = true := by
  cases x with
  | memRd addr => rfl
  | memWr addr data =>
    rw [txnInstr]
    split
    next hram => exact decide_eq_true hram
    next hrom => exact decide_eq_true (Nat.not_le.1 hrom)
  | ioRd port rowsel | ioWr port data =>
    rw [txnInstr]
    split
    next heven => exact heven
    next hodd =>
      rw [portSelected_iff, Bool.not_eq_false] at hodd
      exact hodd

/-- So the transaction's record decodes to that operation. -/
theorem decode_txnRecord (romSize : Nat) (x : Txn) :
    decode romSize ⟨(encodeTxn x).format, [], (encodeTxn x).values⟩ = .ok (txnInstr romSize x) := by
  rw [← encode_txnInstr romSize]
  exact decode_encode (txnInstr_wf romSize x)

/-- To perform a transaction is to perform its operation, which is never refused (R194). -/
theorem exec_txnInstr (s : State) (x : Txn) :
    exec (txnInstr s.params.romSize x) s = .next (s.perform x) := by
  cases x with
  | memRd addr => rfl
  | memWr addr data =>
    rw [txnInstr]
    split
    next hram => exact exec_memWrRam_of_romSize_le hram data
    next hrom => exact exec_memWrRom_of_lt_romSize (Nat.not_le.1 hrom) data
  | ioRd port rowsel | ioWr port data =>
    rw [txnInstr]
    split
    next heven => exact if_pos heven
    next hodd => exact if_neg hodd

/-- A transaction performed first leaves the rest of the `CPU_STEP` enabled, with the same count. -/
theorem exec_cpuStep_cons {s : State} (hphase : s.phase = .executing)
    (hbudget : s.fcyc < cyclesPerFrame s.params) (x : Txn) (xs : List Txn) (cycles : Nat) :
    exec (.cpuStep (x :: xs) cycles) s = exec (.cpuStep xs cycles) (s.perform x) := by
  obtain ⟨mem, border, results, hperform, -⟩ := s.perform_frame x
  rw [exec_cpuStep_of_lt_budget hphase hbudget, State.performAll, hperform]
  exact (exec_cpuStep_of_lt_budget (s := { s with
    mem := mem, border := border, outputs := results ++ s.outputs }) hphase hbudget xs cycles).symm

/-! ### The flash counter -/

theorem nextFlashcnt_toNat (n : BitVec 4) : (nextFlashcnt n).toNat = (n.toNat + 1) % 16 :=
  BitVec.toNat_add n 1

/-- `FLASH` inverts exactly on the count that wraps (R197). -/
theorem nextFlash_eq (flash : Bool) (n : BitVec 4) :
    nextFlash flash n = if n.toNat = 15 then !flash else flash := by
  have hwrap : nextFlashcnt n = 0 ↔ n.toNat = 15 := by
    have hlt : n.toNat < 16 := n.isLt
    rw [← BitVec.toNat_inj, nextFlashcnt_toNat]
    change (n.toNat + 1) % 16 = 0 ↔ n.toNat = 15
    omega
  rw [nextFlash, if_congr hwrap rfl rfl]

/-! ### Throttling -/

/-- With time left in the frame period one sleep makes it up (R199). -/
theorem State.sleepRest_of_lt {s : State} (h : s.elapsed * s.params.frameRateHz < 1000000000) :
    s.sleepRest = s.emit (.sleep (1000000000 - s.elapsed * s.params.frameRateHz)) := by
  rw [State.sleepRest, throttleSleep, if_pos h]

/-- A frame that overran its period is followed by no sleep (R199). -/
theorem State.sleepRest_of_le {s : State} (h : 1000000000 ≤ s.elapsed * s.params.frameRateHz) :
    s.sleepRest = s := by
  rw [State.sleepRest, throttleSleep, if_neg (Nat.not_lt.2 h)]

end Machine

open Machine

/-- Settles O24: POLL applies the first event and goes on with the rest in the same phase. -/
theorem pollAppliesEventsInOrder : Obligations.PollAppliesEventsInOrder := by
  intro s events hphase hquit
  refine ⟨s.pollEvents events, exec_poll_of_polling hphase events, s.pollEvents_of_no_quit hquit,
    ?empty, ?first⟩
  case empty =>
    rintro rfl
    rfl
  case first =>
    rintro id pressed rest rfl
    exact ⟨s.hostKey id pressed, rfl,
      exec_poll_of_polling ((s.hostKey_phase id pressed).trans hphase) rest⟩

/-- Settles O25: POLL stops at the first quit, and no other phase looks at one. -/
theorem quitEndsTheRunInPolling : Obligations.QuitEndsTheRunInPolling := by
  refine ⟨fun s before after hphase hquit => ?poll, fun s hphase => ?quit,
    fun s hphase hrunning => ?waiting, fun s hstarted hphase => ?terminated⟩
  case poll =>
    refine ⟨s.pollEvents before, exec_poll_of_polling hphase before, ?_⟩
    rw [exec_poll_of_polling hphase, s.pollEvents_append_quit after hquit]
  case quit => exact if_pos hphase
  case waiting => exact (if_neg hphase).trans (if_neg hrunning)
  case terminated => simp [step, fetch, hstarted, hphase]

/-- Settles O26: each transaction is the operation its record decodes to, and leaves the rest of the step
enabled. -/
theorem cpuStepPerformsTransactionsInOrder : Obligations.CpuStepPerformsTransactionsInOrder := by
  intro s cycles hphase hbudget
  exact ⟨exec_cpuStep_of_lt_budget hphase hbudget [] cycles, fun x xs =>
    ⟨txnInstr s.params.romSize x, s.perform x, decode_txnRecord s.params.romSize x, exec_txnInstr s x,
      exec_cpuStep_cons hphase hbudget x xs cycles⟩⟩

/-- Settles O27: the frame of the transactions, with the cycles added. -/
theorem cpuStepCompletesAndKeepsTheRest : Obligations.CpuStepCompletesAndKeepsTheRest := by
  intro s txns cycles hphase hbudget hwf
  obtain ⟨mem, border, results, hperform, -, hkeeps, -, hrom⟩ := s.performAll_frame txns
  refine ⟨mem, border, results, ?_, hkeeps hwf, hrom⟩
  rw [exec_cpuStep_of_lt_budget hphase hbudget, hperform]
  rfl

/-- Settles O28: the request goes to the history and the phase moves on. -/
theorem frameIrqEmitsOneRequest : Obligations.FrameIrqEmitsOneRequest :=
  fun _ hphase hbudget => exec_frameIrq_of_budget_le hphase hbudget

/-- Settles O29: the picture is made from the `FLASH` of before the advance. -/
theorem decodeRendersThenAdvancesFlash : Obligations.DecodeRendersThenAdvancesFlash :=
  fun s hphase => ⟨s.videoDecode, s.videoDecode.flashAdvance, rfl, rfl, exec_decode_of_decoding hphase⟩

/-- Settles O30: four bits count modulo 16, and 15 is the count that wraps. -/
theorem flashAdvanceTogglesEvery16 : Obligations.FlashAdvanceTogglesEvery16 := by
  intro s
  refine ⟨nextFlashcnt s.flashcnt, nextFlashcnt_toNat s.flashcnt, ?_⟩
  rw [← nextFlash_eq]
  rfl

/-- Settles O31: PRESENT finds both values it emits. -/
theorem presentHandsOverTheFrame : Obligations.PresentHandsOverTheFrame :=
  fun _ _ _ hphase hpix hbrgb => execPresent_picture hphase hpix hbrgb

/-- Settles O33: the sleep is the difference of the frame period and the elapsed time when that is positive. -/
theorem throttleSleepsTheRemainder : Obligations.ThrottleSleepsTheRemainder := by
  intro s hphase
  obtain ⟨os, hsleep, -⟩ := s.sleepRest_frame
  refine ⟨s.sleepRest.outputs, ?answer, fun hlt => ?sleep, fun hle => ?overrun⟩
  case answer =>
    rw [exec_throttle_of_throttling hphase, hsleep]
    rfl
  case sleep =>
    rw [State.sleepRest_of_lt hlt]
    exact ⟨_, rfl, Nat.sub_add_cancel hlt.le⟩
  case overrun => rw [State.sleepRest_of_le hle]

/-- Settles O36: each operation's guard is the negation of its clause. -/
theorem phaseOperationsRefusedElsewhere : Obligations.PhaseOperationsRefusedElsewhere := by
  intro s
  refine ⟨fun hphase _ => if_neg hphase, fun hdisabled _ _ => if_neg ?cpuStep,
    fun hdisabled => if_neg ?frameIrq, fun hphase => if_neg hphase, fun hphase => if_neg hphase,
    fun hphase => if_neg hphase⟩
  case cpuStep =>
    rintro ⟨hphase, hbudget⟩
    exact hdisabled.elim (· hphase) (Nat.not_le.2 hbudget)
  case frameIrq =>
    rintro ⟨hphase, hbudget⟩
    exact hdisabled.elim (· hphase) (Nat.not_lt.2 hbudget)

end Sys2Proof
end

section
/-! PROOFS. The system level (R190, R200, R202, R203): a step performs the operation of its phase, what that
changes, and the counts of requests, of pictures and of decoded frames along the phases. -/

namespace Sys2Proof

namespace Machine

/-! ### The operation of a phase -/

/-- At the system level the phase selects the operation, in Terminated too (R190). -/
theorem fetch_of_systemLevel {s : State} (hs : s.SystemLevel) : fetch s = sequencerFetch s := by
  obtain ⟨hstarted, hscript⟩ := hs
  by_cases hphase : s.phase = .terminated <;> simp [fetch, sequencerFetch, hstarted, hscript, hphase]

theorem step_of_sequencerFetch {s u : State} {i : Instr} (hs : s.SystemLevel)
    (hfetch : sequencerFetch s = .ok (i, u)) : step s = exec i u := by
  rw [step, fetch_of_systemLevel hs, hfetch]

section
variable {s : State}

theorem sequencerFetch_polling (hphase : s.phase = .polling) :
    sequencerFetch s = .ok (.poll s.events, s.setEvents []) := by
  rw [sequencerFetch, hphase]

theorem sequencerFetch_waiting (hphase : s.phase = .executing)
    (hbudget : s.fcyc < cyclesPerFrame s.params) (hreports : s.reports = []) :
    sequencerFetch s = .error (.inr .awaitingProcessor) := by
  simp only [sequencerFetch, hphase, if_pos hbudget, hreports]

theorem sequencerFetch_report {q : CpuReport} {qs : List CpuReport} (hphase : s.phase = .executing)
    (hbudget : s.fcyc < cyclesPerFrame s.params) (hreports : s.reports = q :: qs) :
    sequencerFetch s = .ok (.cpuStep q.txns q.cycles, s.setReports qs) := by
  simp only [sequencerFetch, hphase, if_pos hbudget, hreports]

theorem sequencerFetch_budget (hphase : s.phase = .executing)
    (hbudget : cyclesPerFrame s.params ≤ s.fcyc) : sequencerFetch s = .ok (.frameIrq, s) := by
  simp only [sequencerFetch, hphase, if_neg (Nat.not_lt.2 hbudget)]

theorem sequencerFetch_decoding (hphase : s.phase = .decoding) :
    sequencerFetch s = .ok (.decode, s) := by
  rw [sequencerFetch, hphase]

theorem sequencerFetch_presenting (hphase : s.phase = .presenting) :
    sequencerFetch s = .ok (.present, s) := by
  rw [sequencerFetch, hphase]

theorem sequencerFetch_throttling (hphase : s.phase = .throttling) :
    sequencerFetch s = .ok (.throttle, s) := by
  rw [sequencerFetch, hphase]

end

/-! ### What a step changes -/

/-- The steps of the system level: in each phase, what its operation writes and what it adds to the history.
CPU_STEP and THROTTLE add neither a request nor a picture. -/
inductive SequencerStep (s : State) : State → Prop where
  | poll (krow : Vector (BitVec 5) 8) (hphase : s.phase = .polling) (hquit : Event.quit ∉ s.events) :
    SequencerStep s { s with events := [], krow := krow, fcyc := 0, phase := .executing }
  | quit (krow : Vector (BitVec 5) 8) (hphase : s.phase = .polling) (hquit : Event.quit ∈ s.events) :
    SequencerStep s { s with events := [], krow := krow, phase := .terminated }
  | cpuStep (mem : Memory) (border : BitVec 3) (fcyc : Nat) (reports : List CpuReport)
      (outputs : List Output) (hphase : s.phase = .executing)
      (hbudget : s.fcyc < cyclesPerFrame s.params) (hirq : irqCount outputs = irqCount s.outputs)
      (hpresent : presentCount outputs = presentCount s.outputs) :
    SequencerStep s { s with
      mem := mem, border := border, fcyc := fcyc, reports := reports, outputs := outputs }
  | frameIrq (hphase : s.phase = .executing) (hbudget : cyclesPerFrame s.params ≤ s.fcyc) :
    SequencerStep s { s with
      outputs := .irq s.params.intVector :: s.outputs, phase := .decoding }
  | decode (pix : Picture) (brgb : Colour) (hphase : s.phase = .decoding) :
    SequencerStep s { s with
      pix := some pix, brgb := some brgb, flash := nextFlash s.flash s.flashcnt
      flashcnt := nextFlashcnt s.flashcnt, phase := .presenting }
  | present (pix : Picture) (brgb : Colour) (hphase : s.phase = .presenting) :
    SequencerStep s { s with outputs := .present pix brgb :: s.outputs, phase := .throttling }
  | throttle (outputs : List Output) (hphase : s.phase = .throttling)
      (hirq : irqCount outputs = irqCount s.outputs)
      (hpresent : presentCount outputs = presentCount s.outputs) :
    SequencerStep s { s with outputs := outputs, phase := .polling }

/-- Every step of the model at the system level is one of these. -/
theorem sequencerStep_of_step {s t : State} (hs : s.SystemLevel) (h : step s = .next t) :
    SequencerStep s t := by
  obtain ⟨hphase, rfl⟩ | ⟨hphase, hbudget, q, qs, -, rfl⟩ | ⟨hphase, hbudget, rfl⟩ | ⟨hphase, rfl⟩ |
    ⟨hphase, pix, brgb, -, -, rfl⟩ | ⟨hphase, rfl⟩ := system_step_cases hs h
  · obtain ⟨krow, hpoll⟩ := (s.setEvents []).pollEvents_frame s.events
    rw [hpoll]
    split
    next hquit => exact .quit krow hphase hquit
    next hquit => exact .poll krow hphase hquit
  · obtain ⟨mem, border, results, hperform, hresults, -⟩ := (s.setReports qs).performAll_frame q.txns
    obtain ⟨hirq, hpresent⟩ := counts_of_results (ps := s.outputs) hresults
    rw [hperform]
    exact .cpuStep mem border _ qs _ hphase hbudget hirq hpresent
  · exact .frameIrq hphase hbudget
  · exact .decode _ _ hphase
  · exact .present pix brgb hphase
  · obtain ⟨os, hsleep, rfl | ⟨n, rfl⟩⟩ := s.sleepRest_frame
    · rw [hsleep]
      exact .throttle _ hphase rfl rfl
    · rw [hsleep]
      exact .throttle _ hphase rfl rfl

theorem SequencerStep.systemLevel {s t : State} (h : SequencerStep s t) (hs : s.SystemLevel) :
    t.SystemLevel := by
  cases h <;> exact hs

/-! ### Requests and pictures -/

/-- The requests of the history are those of the pictures handed over, and one more between FRAME_IRQ and
PRESENT (R200). -/
def State.RequestsCounted (s : State) : Prop :=
  irqCount s.outputs = presentCount s.outputs +
    (if s.phase = .decoding ∨ s.phase = .presenting then 1 else 0)

/-- FRAME_IRQ adds a request and enters Decoding, PRESENT adds a picture and leaves Presenting; DECODE stays
between the two, and every other step outside of them. -/
theorem SequencerStep.requestsCounted {s t : State} (h : SequencerStep s t) (hs : s.RequestsCounted) :
    t.RequestsCounted := by
  unfold State.RequestsCounted at hs ⊢
  cases h with
  | poll krow hphase hquit => simpa [hphase] using hs
  | quit krow hphase hquit => simpa [hphase] using hs
  | cpuStep mem border fcyc reports outputs hphase hbudget hirq hpresent =>
    simpa [hphase, hirq, hpresent] using hs
  | frameIrq hphase hbudget => simpa [hphase, irqCount, presentCount] using hs
  | decode pix brgb hphase => simpa [hphase] using hs
  | present pix brgb hphase => simpa [hphase, irqCount, presentCount] using hs
  | throttle outputs hphase hirq hpresent => simpa [hphase, hirq, hpresent] using hs

/-! ### Frames of the flash cycle -/

/-- `FLASH` and `FLASHCNT` together count modulo 32 (R197). -/
theorem State.flashAdvance_flashAge (s : State) :
    s.flashAdvance.flashAge = (s.flashAge + 1) % 32 := by
  simp only [State.flashAge, State.flashAdvance, State.setFlash_flash, State.setFlash_flashcnt,
    nextFlash_eq, nextFlashcnt_toNat]
  split
  next hwrap =>
    rw [hwrap]
    cases s.flash <;> rfl
  next hnowrap =>
    have hcnt : s.flashcnt.toNat < 16 := s.flashcnt.isLt
    have hflash : s.flash.toNat ≤ 1 := Bool.toNat_le s.flash
    omega

/-- The upper bit of that number is `FLASH`. -/
theorem State.flash_eq_of_flashAge {s : State} {n : Nat} (h : s.flashAge = n % 32) :
    s.flash = decide (n / 16 % 2 = 1) := by
  have hcnt : s.flashcnt.toNat < 16 := s.flashcnt.isLt
  have hflash : s.flash.toNat = n / 16 % 2 := by
    unfold State.flashAge at h
    omega
  rw [← hflash]
  cases s.flash <;> rfl

/-- `FLASH` and `FLASHCNT` count the frames decoded: those handed over, and the one PRESENT is about to
(R203). -/
def State.FlashCounted (s : State) : Prop :=
  s.flashAge = (presentCount s.outputs + if s.phase = .presenting then 1 else 0) % 32

/-- DECODE counts its frame and PRESENT hands it over; no other step touches the count or the number of
pictures. -/
theorem SequencerStep.flashCounted {s t : State} (h : SequencerStep s t) (hs : s.FlashCounted) :
    t.FlashCounted := by
  unfold State.FlashCounted at hs ⊢
  cases h with
  | poll krow hphase hquit => simpa [State.flashAge, hphase] using hs
  | quit krow hphase hquit => simpa [State.flashAge, hphase] using hs
  | cpuStep mem border fcyc reports outputs hphase hbudget hirq hpresent =>
    simpa [State.flashAge, hphase, hpresent] using hs
  | frameIrq hphase hbudget => simpa [State.flashAge, hphase, presentCount] using hs
  | decode pix brgb hphase =>
    simp only [hphase, reduceCtorEq, if_false, Nat.add_zero] at hs
    refine s.flashAdvance_flashAge.trans ?_
    rw [hs, Nat.mod_add_mod]
    rfl
  | present pix brgb hphase => simpa [State.flashAge, hphase, presentCount] using hs
  | throttle outputs hphase hirq hpresent => simpa [State.flashAge, hphase, hpresent] using hs

/-! ### The end of Executing -/

/-- A report below the budget is taken: its cycles are added, and its transactions leave only results in the
history (R194). -/
theorem step_report {s : State} {q : CpuReport} {qs : List CpuReport} (hs : s.SystemLevel)
    (hphase : s.phase = .executing) (hbudget : s.fcyc < cyclesPerFrame s.params)
    (hreports : s.reports = q :: qs) : ∃ mem border results,
    (∀ o ∈ results, ∃ v, o = Output.result v) ∧
    step s = .next { s with
      mem := mem, border := border, fcyc := s.fcyc + q.cycles, reports := qs
      outputs := results ++ s.outputs } := by
  obtain ⟨mem, border, results, hperform, hresults, -⟩ := (s.setReports qs).performAll_frame q.txns
  refine ⟨mem, border, results, hresults, ?_⟩
  rw [step_of_sequencerFetch hs (sequencerFetch_report hphase hbudget hreports),
    exec_cpuStep_of_lt_budget (s := s.setReports qs) hphase hbudget, hperform]
  rfl

/-- What R193 promises of a state in Executing: within one step per cycle of the budget left and one more the
machine is in Decoding, the budget consumed, with one more request and no picture. -/
def State.EndsExecuting (s : State) : Prop :=
  ∃ k t, k ≤ cyclesPerFrame s.params - s.fcyc + 1 ∧ core.run k s = .next t ∧
    t.phase = .decoding ∧ cyclesPerFrame s.params ≤ t.fcyc ∧
    irqCount t.outputs = irqCount s.outputs + 1 ∧ presentCount t.outputs = presentCount s.outputs

/-- With the budget used up, FRAME_IRQ ends the phase (R195). -/
theorem endsExecuting_of_budget_le {s : State} (hs : s.SystemLevel) (hphase : s.phase = .executing)
    (hbudget : cyclesPerFrame s.params ≤ s.fcyc) : s.EndsExecuting := by
  have hstep : step s = .next (s.requestInterrupt.setPhase .decoding) :=
    (step_of_sequencerFetch hs (sequencerFetch_budget hphase hbudget)).trans
      (exec_frameIrq_of_budget_le hphase hbudget)
  exact ⟨1, _, Nat.le_add_left _ _, run_succ core 0 hstep, rfl, hbudget, rfl, rfl⟩

/-- Each report takes a cycle of the budget left, and so pays for its own step: with as many reports as there
are cycles left the phase ends (R193, D15). -/
theorem endsExecuting_of_reports {s : State} {reports : List CpuReport} (hs : s.SystemLevel)
    (hphase : s.phase = .executing) (hreports : s.reports = reports) (hprogress : CpuProgress reports)
    (henough : cyclesPerFrame s.params ≤ s.fcyc + reports.length) : s.EndsExecuting := by
  induction reports generalizing s with
  | nil => exact endsExecuting_of_budget_le hs hphase henough
  | cons q qs ih =>
    rcases Nat.lt_or_ge s.fcyc (cyclesPerFrame s.params) with hbelow | hreached
    case inr => exact endsExecuting_of_budget_le hs hphase hreached
    case inl =>
      obtain ⟨hq, hqs⟩ := List.forall_mem_cons.1 hprogress
      obtain ⟨mem, border, results, hresults, hstep⟩ := step_report hs hphase hbelow hreports
      obtain ⟨hirq, hpresent⟩ := counts_of_results (ps := s.outputs) hresults
      obtain ⟨k, t, hk, hrun, htphase, htfcyc, htirq, htpresent⟩ := ih (s := { s with
          mem := mem, border := border, fcyc := s.fcyc + q.cycles, reports := qs
          outputs := results ++ s.outputs }) hs hphase rfl hqs (by
        rw [List.length_cons] at henough
        change cyclesPerFrame s.params ≤ s.fcyc + q.cycles + qs.length
        omega)
      have hk' : k + 1 ≤ cyclesPerFrame s.params - s.fcyc + 1 := by
        change k ≤ cyclesPerFrame s.params - (s.fcyc + q.cycles) + 1 at hk
        omega
      exact ⟨k + 1, t, hk', (run_succ core k hstep).trans hrun, htphase, htfcyc,
        htirq.trans (congrArg (· + 1) hirq), htpresent.trans hpresent⟩

end Machine

open Machine

/-- Settles O49: the request is made on the way into Decoding and its picture handed over on the way out of
Presenting. -/
theorem oneInterruptPerFrame : Obligations.OneInterruptPerFrame := by
  intro s t hs hcounted hstep
  have hseq : SequencerStep s t := sequencerStep_of_step hs hstep
  exact ⟨hseq.systemLevel hs, hseq.requestsCounted hcounted⟩

/-- Settles O50: DECODE is the only step that counts a frame, and it uses the `FLASH` of before the count. -/
theorem flashFollowsTheFrameNumber : Obligations.FlashFollowsTheFrameNumber := by
  intro s t hs hcounted hstep
  have hseq : SequencerStep s t := sequencerStep_of_step hs hstep
  refine ⟨hseq.systemLevel hs, hseq.flashCounted hcounted, fun hphase => ?flash⟩
  rw [hphase] at hcounted
  exact State.flash_eq_of_flashAge hcounted

/-- Settles O48: what each phase's operation writes. -/
theorem eachPhaseOwnsItsState : Obligations.EachPhaseOwnsItsState := by
  intro s t hs hstep
  refine ⟨(sequencerStep_of_step hs hstep).systemLevel hs, (keeps_of_step hstep).params, ?_⟩
  cases sequencerStep_of_step hs hstep with
  | poll krow hphase hquit => simp [hphase, hquit]
  | quit krow hphase hquit => simp [hphase, hquit]
  | cpuStep mem border fcyc reports outputs hphase hbudget hirq hpresent => simp [hphase, hbudget]
  | frameIrq hphase hbudget => simp [hphase, hbudget]
  | decode pix brgb hphase => simp [hphase]
  | present pix brgb hphase => simp [hphase]
  | throttle outputs hphase hirq hpresent => simp [hphase]

/-- Settles O51: an induction on the reports, each of which takes at least one cycle. -/
theorem executingEndsUnderProgress : Obligations.ExecutingEndsUnderProgress :=
  fun _ hs hphase hprogress henough => endsExecuting_of_reports hs hphase rfl hprogress henough

/-- Settles O43: with no script line the fetch is that of the phase. -/
theorem stepRunsThePhaseOperation : Obligations.StepRunsThePhaseOperation := by
  intro s hs
  refine ⟨fun hphase => ?polling, fun hphase hbudget => ⟨fun hreports => ?waiting,
      fun q qs hreports => ?report⟩, fun hphase hbudget => ?budget, fun hphase => ?decoding,
    fun hphase => ?presenting, fun hphase => ?throttling⟩
  case polling => exact step_of_sequencerFetch hs (sequencerFetch_polling hphase)
  case waiting =>
    rw [step, fetch_of_systemLevel hs, sequencerFetch_waiting hphase hbudget hreports]
  case report => exact step_of_sequencerFetch hs (sequencerFetch_report hphase hbudget hreports)
  case budget => exact step_of_sequencerFetch hs (sequencerFetch_budget hphase hbudget)
  case decoding => exact step_of_sequencerFetch hs (sequencerFetch_decoding hphase)
  case presenting => exact step_of_sequencerFetch hs (sequencerFetch_presenting hphase)
  case throttling => exact step_of_sequencerFetch hs (sequencerFetch_throttling hphase)

/-- Settles O45: right after `RESET` the history is empty, `FLASH` and `FLASHCNT` are 0, and Polling is next. -/
theorem resetStartsTheFrameCount : Obligations.ResetStartsTheFrameCount :=
  ⟨⟨rfl, rfl⟩, rfl, rfl⟩

end Sys2Proof
end

section
/-! PROOFS. RESET (R260, R262): when it is performed, what it leaves, and that it is the first operation of a run
and the only RESET. -/

namespace Sys2Proof

namespace Machine

/-! ### The operation -/

theorem exec_reset_of_wf {s : State} (hoff : s.started = false) (hwf : s.params.Wf) :
    exec .reset s = .next s.resetBlock := by
  rw [exec, execReset, hoff, if_neg Bool.false_ne_true, if_pos hwf]

theorem exec_reset_of_not_wf {s : State} (hoff : s.started = false) (hwf : ¬ s.params.Wf) :
    exec .reset s = .refused .parametersInvalid := by
  rw [exec, execReset, hoff, if_neg Bool.false_ne_true, if_neg hwf]

theorem exec_reset_of_started {s : State} (hstarted : s.started = true) :
    exec .reset s = .refused .alreadyReset :=
  if_pos hstarted

/-- What `RESET` keeps, the inputs, the script and the history, is no matter of the invariant. -/
theorem State.resetBlock_inv {s : State} (hwf : s.params.Wf) : s.resetBlock.Inv :=
  { State.powerOn_inv hwf with }

/-- Memory right after `RESET` reads as its contents at reset, whatever was listed before (R36). -/
theorem memRead_resetBlock (s : State) (a : Nat) :
    memRead s.resetBlock.params s.resetBlock.mem a = unlisted s.params a :=
  memRead_powerOn s.params a

/-! ### The step at power-on -/

section
variable {s : State} (hoff : s.started = false)
include hoff

theorem fetch_of_not_started : fetch s = powerOnFetch s := if_pos hoff

theorem step_no_script_of_not_started (hscript : s.script = []) : step s = exec .reset s := by
  rw [step, fetch_of_not_started hoff, powerOnFetch, hscript]

variable {r : Record} {rest : List Record} (hscript : s.script = r :: rest)
include hscript

theorem step_reset_line_of_not_started (hdecode : decode s.params.romSize r = .ok .reset) :
    step s = exec .reset (s.setScript rest) := by
  simp only [step, fetch_of_not_started hoff, powerOnFetch, hscript, hdecode]

theorem step_other_line_of_not_started {i : Instr} (hdecode : decode s.params.romSize r = .ok i)
    (hi : i ≠ .reset) : step s = .refused .notReset := by
  simp only [step, fetch_of_not_started hoff, powerOnFetch, hscript, hdecode]

end

/-! ### A block that has been reset stays so -/

section
variable (s : State)

@[simp] theorem State.write_started (addr : Word) (data : Byte) :
    (s.write addr data).started = s.started := by
  obtain ⟨mem, hwrite, -⟩ := s.write_frame addr data
  rw [hwrite]

@[simp] theorem State.performAll_started (txns : List Txn) :
    (s.performAll txns).started = s.started := by
  obtain ⟨mem, border, results, hperform, -⟩ := s.performAll_frame txns
  rw [hperform]

@[simp] theorem State.portWrite_started (port : Word) (data : Byte) :
    (s.portWrite port data).started = s.started :=
  s.performAll_started [.ioWr port data]

@[simp] theorem State.hostKey_started (id : HostKey) (pressed : Bool) :
    (s.hostKey id pressed).started = s.started := by
  obtain ⟨krow, hkey⟩ := s.hostKey_frame id pressed
  rw [hkey]

@[simp] theorem State.pollEvents_started (events : List Event) :
    (s.pollEvents events).started = s.started := by
  obtain ⟨krow, hpoll⟩ := s.pollEvents_frame events
  rw [hpoll]
  split <;> rfl

@[simp] theorem State.sleepRest_started : s.sleepRest.started = s.started := by
  obtain ⟨os, hsleep, -⟩ := s.sleepRest_frame
  rw [hsleep]

end

section
variable {s t : State}

/-- Both ways of a quit signal leave the mark of the reset (R192). -/
theorem started_of_execQuit (h : execQuit s = .next t) : t.started = s.started := by
  unfold execQuit at h
  split at h
  · cases h; rfl
  · obtain rfl := next_of_guard_not h
    rfl

theorem started_of_execPresent (h : execPresent s = .next t) : t.started = s.started := by
  unfold execPresent at h
  split at h
  · split at h
    · cases h; rfl
    · cases h
  · cases h

/-- No operation but `RESET` writes whether the block has been reset. -/
theorem started_of_exec_of_ne_reset {i : Instr} (hi : i ≠ .reset) (h : exec i s = .next t) :
    t.started = s.started := by
  cases i with
  | keySet row bit pressed => cases h; rfl
  | rowState row => cases h; rfl
  | hostKey id pressed => cases h; exact s.hostKey_started id pressed
  | ioWrBorder port data => obtain rfl := next_of_guard h; exact s.portWrite_started port data
  | ioWrNop port data => obtain rfl := next_of_guard_not h; exact s.portWrite_started port data
  | ioRdKeys port rowsel => obtain rfl := next_of_guard h; rfl
  | ioRdFloat port rowsel => obtain rfl := next_of_guard_not h; rfl
  | memRd addr => cases h; rfl
  | memWrRam addr data => obtain rfl := next_of_guard h; exact s.write_started addr data
  | memWrRom addr data => obtain rfl := next_of_guard_not h; exact s.write_started addr data
  | pixel x y => cases h; rfl
  | videoDecode => cases h; rfl
  | poll events => obtain rfl := next_of_guard h; exact s.pollEvents_started events
  | quit => exact started_of_execQuit h
  | cpuStep txns cycles => obtain rfl := next_of_guard h; exact s.performAll_started txns
  | frameIrq => obtain rfl := next_of_guard h; rfl
  | decode => obtain rfl := next_of_guard h; rfl
  | flashAdvance => cases h; rfl
  | present => exact started_of_execPresent h
  | throttle => obtain rfl := next_of_guard h; exact s.sleepRest_started
  | reset => exact absurd rfl hi

/-- In a block that has been reset every operation keeps that: `RESET` itself is refused. -/
theorem started_of_exec {i : Instr} (hs : s.started = true) (h : exec i s = .next t) :
    t.started = true := by
  by_cases hi : i = .reset
  · rw [hi, exec_reset_of_started hs] at h
    cases h
  · exact (started_of_exec_of_ne_reset hi h).trans hs

theorem started_of_sequencerFetch {i : Instr} (h : sequencerFetch s = .ok (i, t)) :
    t.started = s.started := by
  unfold sequencerFetch at h
  cases hphase : s.phase <;> simp only [hphase] at h
  case executing =>
    split at h
    · split at h
      · cases h
      · cases h; rfl
    · cases h; rfl
  case terminated => cases h
  all_goals cases h; rfl

/-- Every step that answers a state answers one that has been reset: at power-on the step is `RESET`. -/
theorem started_of_step (h : step s = .next t) : t.started = true := by
  obtain ⟨-, -, rest, rfl⟩ | ⟨hs, r, rest, i, -, -, -, hexec⟩ | ⟨hs, -, i, u, hfetch, hexec⟩ :=
    step_next_cases h
  · rfl
  · exact started_of_exec (s := s.setScript rest) hs hexec
  · exact started_of_exec ((started_of_sequencerFetch hfetch).trans hs) hexec

end

end Machine

open Machine

/-- Settles O53: at power-on only `RESET` is fetched, and no step takes back that it has been performed. -/
theorem resetHappensOnceBeforeEverything : Obligations.ResetHappensOnceBeforeEverything := by
  refine fun s => ⟨fun hoff => ⟨step_no_script_of_not_started hoff,
      fun r rest hscript => ⟨?resetLine, ?otherLine⟩⟩,
    exec_reset_of_started, exec_reset_of_not_wf, fun t _ => started_of_step⟩
  case resetLine => exact step_reset_line_of_not_started hoff hscript
  case otherLine => exact fun i => step_other_line_of_not_started hoff hscript

/-- Settles O34: `RESET` puts every element back to its value at power-on, and memory with no cell reads as its
contents at reset. -/
theorem resetOperationSetsEveryElement : Obligations.ResetOperationSetsEveryElement := by
  refine ⟨exec_reset_of_wf rfl Config.params_wf, fun s hoff hwf => ?_⟩
  have ⟨_, hfull, _⟩ := hwf
  refine ⟨s.resetBlock, exec_reset_of_wf hoff hwf, fun a ha => ?rom, fun a ha => ?ram, fun r => ?krow,
    rfl, rfl, rfl, rfl, rfl, rfl, rfl, rfl, rfl, rfl, rfl, rfl, rfl, rfl, State.resetBlock_inv hwf⟩
  case rom =>
    rw [memRead_resetBlock]
    exact romImage_getElem?_eq_unlisted hfull ha
  case ram =>
    rw [memRead_resetBlock]
    exact unlisted_eq_zero ha
  case krow => exact Vector.getElem_replicate r.isLt

end Sys2Proof
end
